-- ==== Sys2Proof/Word.lean ====
section
/-! DEFINITION. The value types of the block (R8 XLEN, R24, R86): plain bit vectors, nothing more. -/

namespace Sys2Proof

/-- One byte on the wire or in a host buffer (R9). -/
abbrev Byte := BitVec 8

/-- An XLEN-bit register, XLEN = 32 (Table R8). -/
abbrev Word := BitVec 32

/-- The 24 address bits a frame carries (R51, R82). -/
abbrev Addr := BitVec 24

/-- The 24-bit JEDEC id (R24, R53). -/
abbrev JedecId := BitVec 24

/-- The 64-bit unique id (R24, R54). -/
abbrev UniqueId := BitVec 64

/-- The 144-bit host command word (Table R86). -/
abbrev CmdWord := BitVec 144

end Sys2Proof
end

