-- ==== Sys2Proof/Config.lean ====
section
/-! DEFINITION. What one implementation fixes for a run and no step changes (R8, R21, R34): the seven
straps, the OPEN identification tables, RANGE_CHECK and PROBE_SIZE; and the one free value, the byte
the environment answers where nothing in State says what it answers (R71). -/

namespace Sys2Proof

/-- The seven strap inputs of R21: the presence of each transport capability. -/
structure Straps where
  hasTx         : Bool
  hasRx         : Bool
  hasCsAssert   : Bool
  hasCsDeassert : Bool
  hasDelay      : Bool
  hasLock       : Bool
  hasUnlock     : Bool
  deriving DecidableEq, Repr

/-- MODEL_SEL (R151): which id bits form the model code; the two selections the source shows. -/
inductive ModelSel where
  | sel23_16
  | sel23_8
  deriving DecidableEq, Repr

/-- DENSITY_SEL (R152): which id byte is the density byte, or none (no known density scheme). -/
inductive DensitySel where
  | noDensity
  | bits7_0
  | bits15_8
  | bits23_16
  deriving DecidableEq, Repr

/-- One entry of MFR_TABLE with that manufacturer's own OPEN parameters (Table R8). The manufacturer's
place in the table is its member number, and the place of a code in `modelTable`, counted on through
the entries in table order, is the model's member number (R93, log entry 21). -/
structure MfrEntry where
  /-- The manufacturer byte, id bits 7:0, that this entry is for. -/
  mfrByte       : Byte
  modelSel      : ModelSel
  /-- The model codes of MODEL_TABLE for this manufacturer; a one-byte code is widened with zeros. -/
  modelTable    : List (BitVec 16)
  densitySel    : DensitySel
  densityOffset : Byte
  deriving DecidableEq, Repr

/-- The configuration record (R7, R8, R21). Plain data; no step writes it (R34). -/
structure Config where
  straps        : Straps
  /-- MFR_TABLE, MODEL_SEL, MODEL_TABLE, DENSITY_SEL, DENSITY_OFFSET (all OPEN, D25). -/
  mfrTable      : List MfrEntry
  /-- RANGE_CHECK (R61, default true). -/
  rangeCheck    : Bool
  /-- PROBE_SIZE (R265, default 64, configurable); a probe reads at least one byte (R113, log entry 20). -/
  probeSize     : Nat
  probeSize_pos : 0 < probeSize := by decide
  deriving DecidableEq, Repr

/-- The byte the environment answers to its `n`-th received byte where the state holds no answer for it
(R71: "any value may come back"). A FREE VALUE: no body, so nothing can be proved of it (log entry 3). -/
opaque Config.freeByte : Nat → Byte

end Sys2Proof
end

