-- ==== Sys2Proof/Machine/Params.lean ====
section
/-! DEFINITION. The constants of Tables R7 and R8 and the test configuration REFCFG (R157). -/

namespace Sys2Proof.Params

/-- PAGE_SIZE (Table R7). -/
abbrev pageSize : Nat := 256
/-- SECTOR_SIZE (Table R7). -/
abbrev sectorSize : Nat := 4096
/-- BLOCK_SIZE (Table R7). -/
abbrev blockSize : Nat := 65536
/-- The size of the region a 32K block erase resets (R58, R60). -/
abbrev halfBlockSize : Nat := 32768
/-- T_SE4K_MS (Table R7). -/
abbrev tSe4kMs : Nat := 10000
/-- T_BE32K_MS (Table R7). -/
abbrev tBe32kMs : Nat := 16000
/-- T_BE64K_MS (Table R7). -/
abbrev tBe64kMs : Nat := 25000
/-- T_CE_MS (Table R7). -/
abbrev tCeMs : Nat := 160000
/-- T_PP_MS (Table R7). -/
abbrev tPpMs : Nat := 500
/-- T_SR_MS (Table R8, D13). -/
abbrev tSrMs : Nat := 500
/-- POLL_INTERVAL_US (Table R7). -/
abbrev pollIntervalUs : Nat := 100
/-- INIT_SETTLE_US (Table R8, D22). -/
abbrev initSettleUs : Nat := 100
/-- FAST_READ_DUMMY (Table R8, D7). -/
abbrev fastReadDummy : Nat := 1
/-- UID_DUMMY (Table R8, D8). -/
abbrev uidDummy : Nat := 4
/-- DUMMY_VALUE (Table R8, D7). -/
abbrev dummyValue : Byte := 0x00
/-- ERASED_BYTE (Table R7). -/
abbrev erasedByte : Byte := 0xFF
/-- PD_COUNT_MAX (Table R8, D15). -/
abbrev pdCountMax : Word := 0xFFFFFFFF
/-- The largest block count whose geometry fits XLEN bits (R23, D4). -/
abbrev blockCountMax : Nat := 65535
/-- The first address a 24-bit frame address cannot name (R51). -/
abbrev addrSpace : Nat := 2 ^ 24
/-- The first microsecond count the busy-wait counter cannot hold (R205, U4). -/
abbrev counterLimit : Nat := 2 ^ 32

/-- All seven capabilities present (R157 and the test vectors' section 0). -/
def allStraps : Straps :=
  { hasTx := true, hasRx := true, hasCsAssert := true, hasCsDeassert := true, hasDelay := true,
    hasLock := true, hasUnlock := true }

/-- REFCFG (R157): the configuration of every example and test vector of the spec. -/
def refConfig : Config :=
  { straps := allStraps
    mfrTable := [
      { mfrByte := 0xEF, modelSel := .sel23_8, modelTable := [0x1740], densitySel := .bits23_16,
        densityOffset := 0x12 }]
    rangeCheck := true
    probeSize := 64 }

end Sys2Proof.Params
end

