-- ==== Sys2Proof/Syntax.lean ====
section
/-! DEFINITION. The instructions: one constructor per row of the opcode table, the nineteen SPI command
frames (space spi_frame, R84 and R136) and the thirty-one host operations (space host_command, R87);
and what is presented to the machine before it is decoded (R81, R86). -/

namespace Sys2Proof

/-- The `unit` field of the command word (R86, R88): the addressing mode of an array operation. -/
inductive AddrUnit where
  | byte
  | page
  | sector
  | block
  deriving DecidableEq, Repr

/-- One constructor per row of spec/opcode_table.json, with the operands its rule gives it. -/
inductive Instr where
  -- Layer C: SPI command frames (40_transport_and_frames.md)
  /-- WREN, R118. -/
  | wren
  /-- WRDI, R119. -/
  | wrdi
  /-- RDP, R120. -/
  | rdp
  /-- DPD, R121. -/
  | dpd
  /-- RDID, R122. -/
  | rdid
  /-- RUID, R123. -/
  | ruid
  /-- FREAD, R124: address and number of bytes received. -/
  | fread (addr : Addr) (count : Nat)
  /-- PP, R125: address and payload. -/
  | pp (addr : Addr) (payload : List Byte)
  /-- SE, R126. -/
  | se (addr : Addr)
  /-- BE32, R127. -/
  | be32 (addr : Addr)
  /-- BE64, R128. -/
  | be64 (addr : Addr)
  /-- CE, R129. -/
  | ce
  /-- RDSR1, R130. -/
  | rdsr1
  /-- RDSR2, R131. -/
  | rdsr2
  /-- RDSR3, R132. -/
  | rdsr3
  /-- WRSR1, R133. -/
  | wrsr1 (v : Byte)
  /-- WRSR2, R134. -/
  | wrsr2 (v : Byte)
  /-- WRSR3, R135. -/
  | wrsr3 (v : Byte)
  /-- POLL, R136: the polling frame of one busy-wait with a budget in milliseconds. -/
  | poll (budget : Word)
  -- Layer H: host operations (Table R87)
  /-- INIT, R180. -/
  | init
  /-- INIT_NOID, R181. -/
  | initNoid (blockCount : Word)
  /-- ENTER_PD, R195. -/
  | enterPd
  /-- EXIT_PD, R196. -/
  | exitPd
  /-- READ, R222. -/
  | read (unit : AddrUnit) (index offset len : Word)
  /-- WRITE, R223; `data` is the separate host data buffer. -/
  | write (unit : AddrUnit) (index offset len : Word) (data : List Byte)
  /-- ERASE_4K, R240. -/
  | erase4k (unit : AddrUnit) (index offset : Word)
  /-- ERASE_32K, R241. -/
  | erase32k (unit : AddrUnit) (index offset : Word)
  /-- ERASE_64K, R242. -/
  | erase64k (unit : AddrUnit) (index offset : Word)
  /-- ERASE_CHIP, R243. -/
  | eraseChip
  /-- IS_EMPTY, R265. -/
  | isEmpty (unit : AddrUnit) (index offset len : Word)
  /-- RD_SR1, R250. -/
  | rdSr1
  /-- RD_SR2, R251. -/
  | rdSr2
  /-- RD_SR3, R252. -/
  | rdSr3
  /-- WR_SR1, R253: `v` is arg[7:0]. -/
  | wrSr1 (v : Byte)
  /-- WR_SR2, R254. -/
  | wrSr2 (v : Byte)
  /-- WR_SR3, R255. -/
  | wrSr3 (v : Byte)
  /-- WRITE_ENABLE, R209. -/
  | writeEnable
  /-- WRITE_DISABLE, R210. -/
  | writeDisable
  /-- WAIT_BUSY, R207: `budget` in milliseconds. -/
  | waitBusy (budget : Word)
  /-- RD_JEDEC, R225. -/
  | rdJedec
  /-- RD_UID, R226. -/
  | rdUid
  /-- PAGE_TO_SECTOR, R165. -/
  | pageToSector (index : Word)
  /-- PAGE_TO_BLOCK, R166. -/
  | pageToBlock (index : Word)
  /-- SECTOR_TO_BLOCK, R167. -/
  | sectorToBlock (index : Word)
  /-- SECTOR_TO_PAGE, R168. -/
  | sectorToPage (index : Word)
  /-- BLOCK_TO_PAGE, R169. -/
  | blockToPage (index : Word)
  /-- BLOCK_TO_SECTOR, R170. -/
  | blockToSector (index : Word)
  /-- ID_MANUFACTURER, R154: `id` is arg[23:0]. -/
  | idManufacturer (id : JedecId)
  /-- ID_MODEL, R155. -/
  | idModel (id : JedecId)
  /-- ID_BLOCKCOUNT, R156. -/
  | idBlockcount (id : JedecId)
  deriving DecidableEq, Repr

/-- What a frame receives after its transmitted bytes (R81): nothing, a number of bytes, or, in the
polling frame, one discarded byte and then polls until a budget in milliseconds runs out (R136). The
shape tells POLL from RDSR1, whose transmitted bytes are the same. -/
inductive RxShape where
  | none
  | bytes (n : Nat)
  | polls (budget : Word)
  deriving DecidableEq, Repr

/-- An instruction as it is presented, before decoding. -/
inductive Request where
  /-- A host command word and the host data buffer (R86); `data` is read by WRITE only. -/
  | command (word : CmdWord) (data : List Byte)
  /-- One SPI command frame as its transmitted bytes and what it receives (R81). -/
  | frame (tx : List Byte) (rx : RxShape)
  deriving DecidableEq, Repr

/-- What the outside does to the block while it is idle (R13, R300). -/
inductive HostMove where
  /-- Present one instruction. -/
  | issue (r : Request)
  /-- The block's one hardware reset (R300). -/
  | hardReset
  deriving DecidableEq, Repr

end Sys2Proof
end

