-- ==== Sys2Proof/WellFormed.lean ====
section
/-! DEFINITION. The checks an instruction's operands meet before it is one the block can emit or accept:
the bounds of the frame formats (Table R81, R113, R125, R205). Host operations have none: every operand
value is accepted and its check is part of the operation (R220, R181). -/

namespace Sys2Proof

/-- The room from an address to the end of its page (R56). -/
def pageRoom (addr : Addr) : Nat := Params.pageSize - addr.toNat % Params.pageSize

/-- The operand bounds of the frames that have one; true of every other instruction. -/
def Instr.wellFormed : Instr → Bool
  | .fread _ count => decide (1 ≤ count)
  | .pp addr payload => decide (1 ≤ payload.length) && decide (payload.length ≤ pageRoom addr)
  | .poll budget => decide (budget.toNat * 1000 < Params.counterLimit)
  | .wren | .wrdi | .rdp | .dpd | .rdid | .ruid | .se _ | .be32 _ | .be64 _ | .ce | .rdsr1 | .rdsr2
  | .rdsr3 | .wrsr1 _ | .wrsr2 _ | .wrsr3 _ | .init | .initNoid _ | .enterPd | .exitPd | .read _ _ _ _
  | .write _ _ _ _ _ | .erase4k _ _ _ | .erase32k _ _ _ | .erase64k _ _ _ | .eraseChip
  | .isEmpty _ _ _ _ | .rdSr1 | .rdSr2 | .rdSr3 | .wrSr1 _ | .wrSr2 _ | .wrSr3 _ | .writeEnable
  | .writeDisable | .waitBusy _ | .rdJedec | .rdUid | .pageToSector _ | .pageToBlock _
  | .sectorToBlock _ | .sectorToPage _ | .blockToPage _ | .blockToSector _ | .idManufacturer _
  | .idModel _ | .idBlockcount _ => true

end Sys2Proof
end

