-- ==== Sys2Proof/Decode.lean ====
section
/-! DEFINITION. The two decoders of the opcode table's two spaces and the encoder (30_encoding.md): SPI
command frames by byte 0 and shape (R81, R82, R84), host command words by op_sel (R86, R87). Total; a
rejection has a name. -/

namespace Sys2Proof

/-- Why a request is no instruction. -/
inductive DecodeError where
  /-- A host command word whose op_sel is not in Table R87 (R90). -/
  | reservedOpSel (op : Byte)
  /-- A frame whose first byte is none of the eighteen opcodes of R84 (R85). -/
  | unknownOpcode (op : Byte)
  /-- A frame whose first byte is an opcode and whose shape is not that opcode's (Table R81). -/
  | badFrame
  deriving DecidableEq, Repr

/-! ### Fields -/

/-- The three address bytes of a frame, most significant first (R52). -/
def addrBytes (a : Addr) : List Byte := [a.extractLsb' 16 8, a.extractLsb' 8 8, a.extractLsb' 0 8]

/-- The address three frame bytes name, the first the most significant (R52, R82). -/
def addrOfBytes (a2 a1 a0 : Byte) : Addr := a2 ++ a1 ++ a0

/-- The two-bit code of an addressing mode (R86). -/
def AddrUnit.code : AddrUnit → BitVec 2
  | .byte => 0
  | .page => 1
  | .sector => 2
  | .block => 3

/-- The addressing mode a two-bit code selects (R86). -/
def AddrUnit.ofCode (c : BitVec 2) : AddrUnit :=
  if c = 0 then .byte else if c = 1 then .page else if c = 2 then .sector else .block

/-- op_sel, bits 7:0 of the command word (Table R86). -/
def CmdWord.opSel (w : CmdWord) : Byte := w.extractLsb' 0 8
/-- unit, bits 9:8. -/
def CmdWord.unit (w : CmdWord) : AddrUnit := AddrUnit.ofCode (w.extractLsb' 8 2)
/-- index, bits 47:16. -/
def CmdWord.index (w : CmdWord) : Word := w.extractLsb' 16 32
/-- offset, bits 79:48. -/
def CmdWord.offset (w : CmdWord) : Word := w.extractLsb' 48 32
/-- len, bits 111:80. -/
def CmdWord.len (w : CmdWord) : Word := w.extractLsb' 80 32
/-- arg, bits 143:112. -/
def CmdWord.arg (w : CmdWord) : Word := w.extractLsb' 112 32
/-- arg[7:0], the status value of WR_SRn (R83). -/
def CmdWord.argByte (w : CmdWord) : Byte := w.extractLsb' 112 8
/-- arg[23:0], the id of the ID operations (R154 to R156). -/
def CmdWord.argId (w : CmdWord) : JedecId := w.extractLsb' 112 24

/-! ### The decoders -/

/-- The host operation a command word selects (Table R87); none for a reserved op_sel (R90). Fields the
operation does not use are ignored (R86). -/
def commandInstr (w : CmdWord) (data : List Byte) : Option Instr :=
  match (CmdWord.opSel w).toNat with
  | 0x00 => some .init
  | 0x01 => some (.initNoid (CmdWord.arg w))
  | 0x02 => some .enterPd
  | 0x03 => some .exitPd
  | 0x04 => some (.read (CmdWord.unit w) (CmdWord.index w) (CmdWord.offset w) (CmdWord.len w))
  | 0x05 => some (.write (CmdWord.unit w) (CmdWord.index w) (CmdWord.offset w) (CmdWord.len w) data)
  | 0x06 => some (.erase4k (CmdWord.unit w) (CmdWord.index w) (CmdWord.offset w))
  | 0x07 => some (.erase32k (CmdWord.unit w) (CmdWord.index w) (CmdWord.offset w))
  | 0x08 => some (.erase64k (CmdWord.unit w) (CmdWord.index w) (CmdWord.offset w))
  | 0x09 => some .eraseChip
  | 0x0A => some (.isEmpty (CmdWord.unit w) (CmdWord.index w) (CmdWord.offset w) (CmdWord.len w))
  | 0x0B => some .rdSr1
  | 0x0C => some .rdSr2
  | 0x0D => some .rdSr3
  | 0x0E => some (.wrSr1 (CmdWord.argByte w))
  | 0x0F => some (.wrSr2 (CmdWord.argByte w))
  | 0x10 => some (.wrSr3 (CmdWord.argByte w))
  | 0x11 => some .writeEnable
  | 0x12 => some .writeDisable
  | 0x13 => some (.waitBusy (CmdWord.arg w))
  | 0x14 => some .rdJedec
  | 0x15 => some .rdUid
  | 0x20 => some (.pageToSector (CmdWord.index w))
  | 0x21 => some (.pageToBlock (CmdWord.index w))
  | 0x22 => some (.sectorToBlock (CmdWord.index w))
  | 0x23 => some (.sectorToPage (CmdWord.index w))
  | 0x24 => some (.blockToPage (CmdWord.index w))
  | 0x25 => some (.blockToSector (CmdWord.index w))
  | 0x28 => some (.idManufacturer (CmdWord.argId w))
  | 0x29 => some (.idModel (CmdWord.argId w))
  | 0x2A => some (.idBlockcount (CmdWord.argId w))
  | _ => none

/-- The eighteen opcodes of Table R84. -/
def frameOpcodes : List Byte :=
  [0x06, 0x04, 0xAB, 0xB9, 0x9F, 0x4B, 0x0B, 0x02, 0x20, 0x52, 0xD8, 0xC7, 0x05, 0x35, 0x15, 0x01, 0x31,
    0x11]

/-- Format O (Table R81): the opcode alone, nothing received. -/
def formatO (i : Instr) : List Byte → RxShape → Option Instr
  | [], .none => some i
  | _, _ => none

/-- Format A: three address bytes, nothing received. -/
def formatA (f : Addr → Instr) : List Byte → RxShape → Option Instr
  | [a2, a1, a0], .none => some (f (addrOfBytes a2 a1 a0))
  | _, _ => none

/-- Format AW: three address bytes and a payload, nothing received. -/
def formatAW (f : Addr → List Byte → Instr) : List Byte → RxShape → Option Instr
  | a2 :: a1 :: a0 :: payload, .none => some (f (addrOfBytes a2 a1 a0) payload)
  | _, _ => none

/-- Format AR: three address bytes and the dummy bytes, then bytes received. -/
def formatAR (f : Addr → Nat → Instr) : List Byte → RxShape → Option Instr
  | a2 :: a1 :: a0 :: dummies, .bytes n =>
    if dummies = List.replicate Params.fastReadDummy Params.dummyValue then
      some (f (addrOfBytes a2 a1 a0) n)
    else none
  | _, _ => none

/-- Formats R and DR: a fixed number of dummy bytes, then a fixed number of bytes received. -/
def formatR (i : Instr) (nDummy nRx : Nat) (args : List Byte) (rx : RxShape) : Option Instr :=
  if args = List.replicate nDummy Params.dummyValue ∧ rx = .bytes nRx then some i else none

/-- Format W1: one byte written. -/
def formatW1 (f : Byte → Instr) : List Byte → RxShape → Option Instr
  | [v], .none => some (f v)
  | _, _ => none

/-- Opcode 0x05: RDSR1 receives one byte, POLL polls (R84). -/
def formatStatus1 : List Byte → RxShape → Option Instr
  | [], .bytes 1 => some .rdsr1
  | [], .polls budget => some (.poll budget)
  | _, _ => none

/-- The frame an opcode and the bytes after it stand for (Tables R81, R84), before its operand bounds. -/
def frameInstr (op : Byte) (args : List Byte) (rx : RxShape) : Option Instr :=
  match op.toNat with
  | 0x06 => formatO .wren args rx
  | 0x04 => formatO .wrdi args rx
  | 0xAB => formatO .rdp args rx
  | 0xB9 => formatO .dpd args rx
  | 0x9F => formatR .rdid 0 3 args rx
  | 0x4B => formatR .ruid Params.uidDummy 8 args rx
  | 0x0B => formatAR .fread args rx
  | 0x02 => formatAW .pp args rx
  | 0x20 => formatA .se args rx
  | 0x52 => formatA .be32 args rx
  | 0xD8 => formatA .be64 args rx
  | 0xC7 => formatO .ce args rx
  | 0x05 => formatStatus1 args rx
  | 0x35 => formatR .rdsr2 0 1 args rx
  | 0x15 => formatR .rdsr3 0 1 args rx
  | 0x01 => formatW1 .wrsr1 args rx
  | 0x31 => formatW1 .wrsr2 args rx
  | 0x11 => formatW1 .wrsr3 args rx
  | _ => none

/-- A frame read from its bytes and shape; the operand bounds of its format hold of what it answers. -/
def decodeFrame (tx : List Byte) (rx : RxShape) : Except DecodeError Instr :=
  match tx with
  | [] => .error .badFrame
  | op :: args =>
    if op ∈ frameOpcodes then
      match frameInstr op args rx with
      | some i => if i.wellFormed then .ok i else .error .badFrame
      | none => .error .badFrame
    else .error (.unknownOpcode op)

/-- A host command word (R86); a reserved op_sel is named (R90). -/
def decodeCommand (w : CmdWord) (data : List Byte) : Except DecodeError Instr :=
  match commandInstr w data with
  | some i => .ok i
  | none => .error (.reservedOpSel (CmdWord.opSel w))

/-- The instruction a request stands for. -/
def decode : Request → Except DecodeError Instr
  | .command w data => decodeCommand w data
  | .frame tx rx => decodeFrame tx rx

/-! ### The encoder -/

/-- A command word from its fields, bits 15:10 zero (Table R86). -/
def commandWord (op : Byte) (unit : AddrUnit) (index offset len arg : Word) : CmdWord :=
  arg ++ len ++ offset ++ index ++ (0 : BitVec 6) ++ unit.code ++ op

/-- A command word of an operation with no operand. -/
def plainCommand (op : Byte) : Request := .command (commandWord op .byte 0 0 0 0) []

/-- A command word of an operation whose one operand is `arg`. -/
def argCommand (op : Byte) (arg : Word) : Request := .command (commandWord op .byte 0 0 0 arg) []

/-- A command word of an operation whose one operand is `index`. -/
def indexCommand (op : Byte) (index : Word) : Request :=
  .command (commandWord op .byte index 0 0 0) []

/-- What is presented for an instruction: the frame's bytes and shape (Tables R81, R84) or the command
word and data buffer (Tables R86, R87), every unused field zero. -/
def encode : Instr → Request
  | .wren => .frame [0x06] .none
  | .wrdi => .frame [0x04] .none
  | .rdp => .frame [0xAB] .none
  | .dpd => .frame [0xB9] .none
  | .rdid => .frame [0x9F] (.bytes 3)
  | .ruid => .frame (0x4B :: List.replicate Params.uidDummy Params.dummyValue) (.bytes 8)
  | .fread addr count =>
    .frame (0x0B :: addrBytes addr ++ List.replicate Params.fastReadDummy Params.dummyValue)
      (.bytes count)
  | .pp addr payload => .frame (0x02 :: addrBytes addr ++ payload) .none
  | .se addr => .frame (0x20 :: addrBytes addr) .none
  | .be32 addr => .frame (0x52 :: addrBytes addr) .none
  | .be64 addr => .frame (0xD8 :: addrBytes addr) .none
  | .ce => .frame [0xC7] .none
  | .rdsr1 => .frame [0x05] (.bytes 1)
  | .rdsr2 => .frame [0x35] (.bytes 1)
  | .rdsr3 => .frame [0x15] (.bytes 1)
  | .wrsr1 v => .frame [0x01, v] .none
  | .wrsr2 v => .frame [0x31, v] .none
  | .wrsr3 v => .frame [0x11, v] .none
  | .poll budget => .frame [0x05] (.polls budget)
  | .init => plainCommand 0x00
  | .initNoid blockCount => argCommand 0x01 blockCount
  | .enterPd => plainCommand 0x02
  | .exitPd => plainCommand 0x03
  | .read unit index offset len => .command (commandWord 0x04 unit index offset len 0) []
  | .write unit index offset len data => .command (commandWord 0x05 unit index offset len 0) data
  | .erase4k unit index offset => .command (commandWord 0x06 unit index offset 0 0) []
  | .erase32k unit index offset => .command (commandWord 0x07 unit index offset 0 0) []
  | .erase64k unit index offset => .command (commandWord 0x08 unit index offset 0 0) []
  | .eraseChip => plainCommand 0x09
  | .isEmpty unit index offset len => .command (commandWord 0x0A unit index offset len 0) []
  | .rdSr1 => plainCommand 0x0B
  | .rdSr2 => plainCommand 0x0C
  | .rdSr3 => plainCommand 0x0D
  | .wrSr1 v => argCommand 0x0E (v.zeroExtend 32)
  | .wrSr2 v => argCommand 0x0F (v.zeroExtend 32)
  | .wrSr3 v => argCommand 0x10 (v.zeroExtend 32)
  | .writeEnable => plainCommand 0x11
  | .writeDisable => plainCommand 0x12
  | .waitBusy budget => argCommand 0x13 budget
  | .rdJedec => plainCommand 0x14
  | .rdUid => plainCommand 0x15
  | .pageToSector index => indexCommand 0x20 index
  | .pageToBlock index => indexCommand 0x21 index
  | .sectorToBlock index => indexCommand 0x22 index
  | .sectorToPage index => indexCommand 0x23 index
  | .blockToPage index => indexCommand 0x24 index
  | .blockToSector index => indexCommand 0x25 index
  | .idManufacturer id => argCommand 0x28 (id.zeroExtend 32)
  | .idModel id => argCommand 0x29 (id.zeroExtend 32)
  | .idBlockcount id => argCommand 0x2A (id.zeroExtend 32)

/-! ### The opcode table's own numbering -/

/-- Byte `k` of a number, byte 0 the least significant: the opcode table's bit numbering. -/
def wordByte (w k : Nat) : Byte := BitVec.ofNat 8 (w / 2 ^ (8 * k))

/-- Bytes 1, 2, 3 of a number, the address bytes of a frame (R82). -/
def wordAddrBytes (w : Nat) : List Byte := [wordByte w 1, wordByte w 2, wordByte w 3]

/-- The frame whose transmitted bytes are the bytes of `w`, byte 0 first, with the length and the shape
its opcode's format has (Table R81; a payload or a count of one byte). -/
def tableFrame (w : Nat) : Request :=
  match (wordByte w 0).toNat with
  | 0x9F => .frame [wordByte w 0] (.bytes 3)
  | 0x4B => .frame [wordByte w 0, wordByte w 1, wordByte w 2, wordByte w 3, wordByte w 4] (.bytes 8)
  | 0x0B => .frame (wordByte w 0 :: wordAddrBytes w ++ [wordByte w 4]) (.bytes 1)
  | 0x02 => .frame (wordByte w 0 :: wordAddrBytes w ++ [wordByte w 4]) .none
  | 0x20 => .frame (wordByte w 0 :: wordAddrBytes w) .none
  | 0x52 => .frame (wordByte w 0 :: wordAddrBytes w) .none
  | 0xD8 => .frame (wordByte w 0 :: wordAddrBytes w) .none
  | 0x05 => .frame [wordByte w 0] (.bytes 1)
  | 0x35 => .frame [wordByte w 0] (.bytes 1)
  | 0x15 => .frame [wordByte w 0] (.bytes 1)
  | 0x01 => .frame [wordByte w 0, wordByte w 1] .none
  | 0x31 => .frame [wordByte w 0, wordByte w 1] .none
  | 0x11 => .frame [wordByte w 0, wordByte w 1] .none
  | _ => .frame [wordByte w 0] .none

/-- How an instruction whose bits are `w` is presented: as a host command word where byte 0 is an op_sel
of Table R87 or no opcode at all, else as a frame. Nine frame opcodes are also op_sel values, and a bare
byte cannot tell the two spaces of the opcode table apart (log entry 8). -/
def tableRequest (nbits w : Nat) : Request :=
  let bits := w % 2 ^ nbits
  let word : CmdWord := BitVec.ofNat 144 bits
  match commandInstr word [] with
  | some _ => .command word []
  | none => if wordByte bits 0 ∈ frameOpcodes then tableFrame bits else .command word []

/-- The instruction the decoder reads from `nbits` bits `w`, numbered as spec/opcode_table.json numbers
them, every bit above them zero. -/
def decodeTableWord (nbits w : Nat) : Option Instr :=
  match decode (tableRequest nbits w) with
  | .ok i => some i
  | .error _ => none

end Sys2Proof
end

