-- ==== Sys2Proof/Machine/State.lean ====
section
/-! DEFINITION. The state of the block and of what stands around it, as plain data: the Device Instance
(R20 to R30), the sequencer (R31), the host port (R32), the transport port's trace (R11), and the
environment that answers the port (R13, R71); the reasons a step stops; reset (R37, R300). -/

namespace Sys2Proof.Machine

/-- The nine error kinds (R271, Table R92). -/
inductive ErrorKind where
  | ok
  | fail
  | invalidParameters
  | noMemoryFound
  | unknownDevice
  | outOfRange
  | notInitialized
  | regionIsNotEmpty
  | isLocked
  deriving DecidableEq, Repr

/-- ManufacturerCode (R25): the sentinel, or the `n`-th member (from 0) of MFR_TABLE. -/
inductive ManufacturerCode where
  | unknown
  | member (n : Nat)
  deriving DecidableEq, Repr

/-- ModelCode (R25): the sentinel, or the `n`-th member (from 0) of MODEL_TABLE. -/
inductive ModelCode where
  | modelUnknown
  | member (n : Nat)
  deriving DecidableEq, Repr

/-- powerMode (R30): what the block last commanded of the chip. -/
inductive PowerMode where
  | idle
  | deepPowerDown
  deriving DecidableEq, Repr

/-- One transport event (R11, R110 to R116); `rx` carries the bytes the environment answered. -/
inductive Event where
  | csLow
  | csHigh
  | tx (bytes : List Byte)
  | rx (bytes : List Byte)
  | delay (us : Nat)
  | lock
  | unlock
  deriving DecidableEq, Repr

/-- The result record of a host operation (R12). -/
structure Result where
  status      : ErrorKind
  value       : BitVec 64
  data        : List Byte
  remainingMs : Nat
  deriving DecidableEq, Repr

/-- SEQ (R31). An operation runs as one atomic step, so no state between two steps is in `run` (log entry 1). -/
inductive Seq where
  | idle
  | run (op : Instr)
  deriving DecidableEq, Repr

/-- The informative reference device (R72): a flash chip behind the port, with the frame it is in. -/
structure RefDevice where
  /-- The flash array `mem`: the bytes that differ from an erased one, addresses rising. -/
  mem       : List Host.Cell
  /-- CAPDEV. -/
  capDev    : Nat
  /-- The write-enable latch. -/
  wel       : Bool
  busyPolls : Nat
  /-- The test-chosen `busy_polls` a mutating command sets. -/
  busyAfter : Nat
  /-- Deep power-down. -/
  dpd       : Bool
  dsr2      : Byte
  dsr3      : Byte
  idBytes   : List Byte
  uidBytes  : List Byte
  /-- The bytes received since chip-select fell; empty while it is high. -/
  txSeen    : List Byte
  /-- The number of bytes answered since chip-select fell. -/
  rxSeen    : Nat
  deriving DecidableEq, Repr

/-- What answers the port (R13, R71): a device where one is fitted, else a script of answers, else the free
value; and whether the host's lock primitive returns (R115). -/
structure Environment where
  /-- The answers to the next received bytes, oldest first (the oracle of R71). -/
  script     : List Byte
  /-- The number of bytes received so far: the index of the free value. The model's own field. -/
  received   : Nat
  device     : Option RefDevice
  /-- Whether a call of LOCK returns (R115, U17). -/
  lockGrants : Bool
  deriving DecidableEq, Repr

/-- The whole state. -/
structure State where
  /-- The straps and OPEN parameters (R8, R21, R34). Never written (log entry 2). -/
  config       : Config
  /-- S.pageSize (Table R22). -/
  pageSize     : Word
  /-- S.sectorSize (Table R22). -/
  sectorSize   : Word
  /-- S.blockSize (Table R22). -/
  blockSize    : Word
  /-- S.blockCount (Table R22). -/
  blockCount   : Word
  /-- S.sectorCount (Table R22). -/
  sectorCount  : Word
  /-- S.pageCount (Table R22). -/
  pageCount    : Word
  /-- S.totalSize (Table R22). -/
  totalSize    : Word
  /-- S.jedecId (Table R24). -/
  jedecId      : JedecId
  /-- S.uniqueId (Table R24). -/
  uniqueId     : UniqueId
  /-- S.manufacturer (Table R24). -/
  manufacturer : ManufacturerCode
  /-- S.model (Table R24). -/
  model        : ModelCode
  /-- S.initialized (R26). -/
  initialized  : Bool
  /-- S.sr1 (R27, R28). -/
  sr1          : Byte
  /-- S.sr2 (R27). -/
  sr2          : Byte
  /-- S.sr3 (R27). -/
  sr3          : Byte
  /-- S.pdCount (R29). -/
  pdCount      : Word
  /-- S.powerMode (R30). -/
  powerMode    : PowerMode
  /-- SEQ (R31). -/
  seq          : Seq
  /-- The host port (R32, R95): what the host presents, in order; the first is CMD with CMD.data (log entry
  12). -/
  port         : List HostMove
  /-- The result record of the last operation (R12, R32). -/
  result       : Result
  /-- The transport events so far, oldest first (R11). -/
  trace        : List Event
  /-- What answers the port (R13). Not part of the block. -/
  env          : Environment
  deriving DecidableEq, Repr

/-- The reasons the machine stops. -/
inductive Fault where
  /-- The host's lock primitive never returns (U17 `stuck`, R115). Raised by every operation that takes
  the lock bracket, where HAS_LOCK = 1 and the environment does not grant the lock. Safe. -/
  | lockNeverGranted
  deriving DecidableEq, Repr

/-- The reasons the model gives no meaning. -/
inductive Refusal where
  /-- An instruction with no meaning yet; raised by exec's arms only. Safe. -/
  | notModelled (mnemonic : String)
  /-- An operation presented while SEQ is not IDLE (U1, R289). Raised by `step`. Safe. -/
  | operationWhileRunning
  /-- A reset while SEQ is not IDLE (U2, R300). Raised by `step`. Safe. -/
  | resetWhileRunning
  /-- Bytes that are no frame of the block's command set (R85). Raised by `step`. Safe. -/
  | notAFrame
  deriving DecidableEq, Repr

/-- The result record nothing has written yet: all zero (log entry 5). -/
def Result.zero : Result := { status := .ok, value := 0, data := [], remainingMs := 0 }

/-- The environment a reset machine stands in: nothing scripted, no device fitted, the lock granted (log
entries 3, 6, 7). -/
def Environment.empty : Environment :=
  { script := [], received := 0, device := none, lockGrants := true }

/-- The machine right after reset (R37, R300, R301), under REFCFG (log entry 4). -/
def State.reset : State :=
  { config := Params.refConfig
    pageSize := 0, sectorSize := 0, blockSize := 0, blockCount := 0, sectorCount := 0, pageCount := 0
    totalSize := 0, jedecId := 0, uniqueId := 0, manufacturer := .unknown, model := .modelUnknown
    initialized := false, sr1 := 0, sr2 := 0, sr3 := 0, pdCount := 0, powerMode := .idle
    seq := .idle, port := [], result := Result.zero, trace := [], env := Environment.empty }

end Sys2Proof.Machine
end

