-- ==== Sys2Proof/Machine/Memory.lean ====
section
/-! DEFINITION. The flash array as a list of (address, byte) pairs in one canonical form: addresses strictly
rising, no entry equal to an erased byte (R14, R60). It is the reference device's array (R72); the block
itself holds no copy of the array (R68). -/

namespace Sys2Proof.Machine

/-- The flash array. -/
abbrev Memory := List Host.Cell

/-- What an unlisted address reads as: an erased byte (Table R7, log entry 9). -/
def Memory.unlisted : Byte := Params.erasedByte

/-- The byte at an address. -/
def Memory.read (m : Memory) (addr : Nat) : Byte :=
  match m with
  | [] => Memory.unlisted
  | (a, b) :: rest => if a = addr then b else Memory.read rest addr

/-- The array without an address. -/
def Memory.remove (m : Memory) (addr : Nat) : Memory :=
  match m with
  | [] => []
  | (a, b) :: rest => if a = addr then rest else (a, b) :: Memory.remove rest addr

/-- An entry put in its place among rising addresses. -/
def Memory.insert (m : Memory) (addr : Nat) (v : Byte) : Memory :=
  match m with
  | [] => [(addr, v)]
  | (a, b) :: rest =>
    if addr < a then (addr, v) :: (a, b) :: rest
    else if addr = a then (addr, v) :: rest
    else (a, b) :: Memory.insert rest addr v

/-- One byte written; writing what an unlisted address reads as removes the entry. -/
def Memory.write (m : Memory) (addr : Nat) (v : Byte) : Memory :=
  if v = Memory.unlisted then Memory.remove m addr else Memory.insert m addr v

/-- A region set to the erased state: its entries removed (R72). -/
def Memory.erase (m : Memory) (base size : Nat) : Memory :=
  m.filter fun c => decide (c.1 < base) || decide (base + size ≤ c.1)

/-- The canonical form holds of the entries above an address. -/
def Memory.wfFrom (lo : Nat) : Memory → Bool
  | [] => true
  | (a, b) :: rest => decide (lo ≤ a) && decide (b ≠ Memory.unlisted) && Memory.wfFrom (a + 1) rest

/-- The canonical form: addresses strictly rising and no entry equal to what an unlisted address reads as. -/
def Memory.wf (m : Memory) : Bool := Memory.wfFrom 0 m

end Sys2Proof.Machine
end

