-- ==== Sys2Proof/Machine/RefDevice.lean ====
section
/-! DEFINITION. The reference device (R72), the spec's informative flash chip behind the port: it answers
received bytes inside a frame and acts on the frame's transmitted bytes when chip-select rises. No meaning
of an instruction depends on it. What R72 leaves open is log entry 15. -/

namespace Sys2Proof.Machine

/-- Chip-select falls: a frame opens. -/
def RefDevice.select (d : RefDevice) : RefDevice := { d with txSeen := [], rxSeen := 0 }

/-- Bytes clocked into the device. -/
def RefDevice.send (d : RefDevice) (bytes : List Byte) : RefDevice :=
  { d with txSeen := d.txSeen ++ bytes }

/-- The status byte 1 of the device: the latch in bit 1, busy in bit 0 (R72, E2). -/
def RefDevice.status (d : RefDevice) : Byte :=
  (if d.wel then 2 else 0) ||| (if 0 < d.busyPolls then 1 else 0)

/-- One received status byte counts one busy poll down; the last one clears the latch (R72, E1). -/
def RefDevice.countPoll (d : RefDevice) : RefDevice :=
  match d.busyPolls with
  | 0 => d
  | n + 1 => { d with busyPolls := n, wel := d.wel && decide (n ≠ 0) }

/-- The byte an awake device answers as number `rxSeen` of the frame it is in; none where R72 gives none. -/
def RefDevice.awakeAnswer (d : RefDevice) : Option Byte :=
  match d.txSeen with
  | [op] =>
    if op = 0x9F then d.idBytes[d.rxSeen]?
    else if op = 0x05 then some d.status
    else if op = 0x35 then (if d.rxSeen = 0 then some d.dsr2 else none)
    else if op = 0x15 then (if d.rxSeen = 0 then some d.dsr3 else none)
    else none
  | [op, a2, a1, a0, _] =>
    if op = 0x4B then d.uidBytes[d.rxSeen]?
    else if op = 0x0B then
      some (Memory.read d.mem (((addrOfBytes a2 a1 a0).toNat + d.rxSeen) % d.capDev))
    else none
  | _ => none

/-- One byte clocked out of the device: an asleep one answers 0xFF (R72, E3). -/
def RefDevice.clockOut (d : RefDevice) : Option Byte × RefDevice :=
  let answer := if d.dpd then some 0xFF else d.awakeAnswer
  let counted := if !d.dpd && decide (d.txSeen = [0x05]) then d.countPoll else d
  (answer, { counted with rxSeen := d.rxSeen + 1 })

/-- A mutating command accepted: busy for the test-chosen number of polls, the latch cleared at once where
that number is 0 (R72). -/
def RefDevice.startCycle (d : RefDevice) : RefDevice :=
  { d with busyPolls := d.busyAfter, wel := d.wel && decide (d.busyAfter ≠ 0) }

/-- A program: each byte ANDed into the array, the address counting on from the frame's (R55, R72). DESIGN CHOICE,
log entry 15: the address is taken modulo CAPDEV. -/
def Memory.program (m : Memory) (capDev addr : Nat) : List Byte → Memory
  | [] => m
  | p :: rest =>
    let at_ := addr % capDev
    Memory.program (Memory.write m at_ (Memory.read m at_ &&& p)) capDev (addr + 1) rest

/-- The aligned region of `size` bytes that holds an address, set to the erased state (R72). DESIGN CHOICE, log
entry 15: an address at or above CAPDEV is taken as it is, not modulo CAPDEV, and the erase is accepted all the
same; R72 gives no modulo for it, and R61 says that the chip's response is not in the source. -/
def RefDevice.eraseRegion (d : RefDevice) (addr size : Nat) : RefDevice :=
  { d with mem := Memory.erase d.mem (addr - addr % size) size }

/-- A mutating frame, accepted only with the latch set (R72). -/
def RefDevice.mutate (d : RefDevice) (tx : List Byte) : RefDevice :=
  if !d.wel then d
  else match tx with
    | [op] => if op = 0xC7 then { d with mem := [] }.startCycle else d
    | [op, v] =>
      if op = 0x31 then { d with dsr2 := v }.startCycle
      else if op = 0x11 then { d with dsr3 := v }.startCycle
      else if op = 0x01 then d.startCycle
      else d
    | op :: a2 :: a1 :: a0 :: payload =>
      let addr := (addrOfBytes a2 a1 a0).toNat
      if op = 0x02 then { d with mem := Memory.program d.mem d.capDev addr payload }.startCycle
      else if payload ≠ [] then d
      else if op = 0x20 then (d.eraseRegion addr Params.sectorSize).startCycle
      else if op = 0x52 then (d.eraseRegion addr Params.halfBlockSize).startCycle
      else if op = 0xD8 then (d.eraseRegion addr Params.blockSize).startCycle
      else d
    | _ => d

/-- What a frame does once chip-select rises (R72): an asleep device ignores every frame but a release. -/
def RefDevice.act (d : RefDevice) (tx : List Byte) : RefDevice :=
  if tx = [0xAB] then { d with dpd := false }
  else if d.dpd then d
  else if tx = [0xB9] then { d with dpd := true }
  else if tx = [0x06] then { d with wel := true }
  else if tx = [0x04] then { d with wel := false }
  else d.mutate tx

/-- Chip-select rises: the frame is acted on and closed. -/
def RefDevice.deselect (d : RefDevice) : RefDevice :=
  { d.act d.txSeen with txSeen := [], rxSeen := 0 }

end Sys2Proof.Machine
end

