-- ==== Sys2Proof/Machine/Environment.lean ====
section
/-! DEFINITION. The environment behind the port (R13, R71): it sees chip-select and the transmitted bytes,
and answers every received byte. A fitted device answers first, then the script, then the free value. -/

namespace Sys2Proof.Machine

/-- Chip-select falls. -/
def Environment.select (e : Environment) : Environment :=
  { e with device := e.device.map RefDevice.select }

/-- Bytes are transmitted. -/
def Environment.send (e : Environment) (bytes : List Byte) : Environment :=
  { e with device := e.device.map fun d => d.send bytes }

/-- Chip-select rises. -/
def Environment.deselect (e : Environment) : Environment :=
  { e with device := e.device.map RefDevice.deselect }

/-- One byte is received (R71). -/
def Environment.answer (e : Environment) : Byte × Environment :=
  match e.device with
  | some d =>
    (d.clockOut.1.getD (Config.freeByte e.received),
      { e with device := some d.clockOut.2, received := e.received + 1 })
  | none =>
    match e.script with
    | b :: rest => (b, { e with script := rest, received := e.received + 1 })
    | [] => (Config.freeByte e.received, { e with received := e.received + 1 })

/-- `n` bytes are received, in order (R113). -/
def Environment.answers : Nat → Environment → List Byte × Environment
  | 0, e => ([], e)
  | n + 1, e =>
    match e.answer with
    | (b, e') =>
      match Environment.answers n e' with
      | (bs, e'') => (b :: bs, e'')

/-- What a whole frame asks of the environment: chip-select falls, bytes go out, `n` bytes come back,
chip-select rises (R117). -/
def Environment.frame (e : Environment) (bytes : List Byte) (n : Nat) : List Byte × Environment :=
  match Environment.answers n (e.select.send bytes) with
  | (bs, e') => (bs, e'.deselect)

end Sys2Proof.Machine
end

