-- ==== Sys2Proof/Machine/Flags.lean ====
section
/-! DEFINITION. The two flags the block decodes from status byte 1 (R28, R91) and the numeric codes of the
enumerations (R92, R93). -/

namespace Sys2Proof.Machine

/-- BUSY, bit 0 of a status byte of register 1 (R28, R91): the busy-wait's exit test. -/
def busyFlag (sr : Byte) : Bool := sr.getLsbD 0

/-- WEL, bit 1 of a status byte of register 1 (R28, R91): decoded for the host only. -/
def welFlag (sr : Byte) : Bool := sr.getLsbD 1

/-- The number of an error kind (Table R92). -/
def ErrorKind.code : ErrorKind → Nat
  | .ok => 0
  | .fail => 1
  | .invalidParameters => 2
  | .noMemoryFound => 3
  | .unknownDevice => 4
  | .outOfRange => 5
  | .notInitialized => 6
  | .regionIsNotEmpty => 7
  | .isLocked => 8

/-- The encoding of a ManufacturerCode (R93): the sentinel 0, table members from 1 in table order. -/
def ManufacturerCode.code : ManufacturerCode → Nat
  | .unknown => 0
  | .member n => n + 1

/-- The encoding of a ModelCode (R93). -/
def ModelCode.code : ModelCode → Nat
  | .modelUnknown => 0
  | .member n => n + 1

/-- The encoding of powerMode (R93). -/
def PowerMode.code : PowerMode → Nat
  | .idle => 0
  | .deepPowerDown => 1

end Sys2Proof.Machine
end

