-- ==== Sys2Proof/Machine/Operands.lean ====
section
/-! DEFINITION. Operand forms: unit sizes and the effective address (R88, R89, R173), the capacity and the
range checks (R51, R61), frame addresses (R83), and the id assemblies (R53, R54). -/

namespace Sys2Proof.Machine

/-- USIZE (R88): the size of the unit an index counts. -/
def State.unitSize (s : State) : AddrUnit → Nat
  | .byte => 1
  | .page => s.pageSize.toNat
  | .sector => s.sectorSize.toNat
  | .block => s.blockSize.toNat

/-- EA (R89), on unbounded naturals. -/
def State.effAddr (s : State) (unit : AddrUnit) (index offset : Word) : Nat :=
  index.toNat * s.unitSize unit + offset.toNat

/-- CAP (R51): what a 24-bit address reaches of the array. -/
def State.capacity (s : State) : Nat := min s.totalSize.toNat Params.addrSpace

/-- The range check of READ, WRITE and IS_EMPTY fails (R61). -/
def State.rangeBad (s : State) (ea len : Nat) : Bool :=
  s.config.rangeCheck && decide (s.capacity < ea + len)

/-- The range check of the addressed erases fails (R61). -/
def State.eraseRangeBad (s : State) (ea : Nat) : Bool :=
  s.config.rangeCheck && decide (s.capacity ≤ ea)

/-- The address a frame carries for an effective address: EA modulo 2^24 (R82, R83). -/
def frameAddr (ea : Nat) : Addr := BitVec.ofNat 24 ea

/-- The 24-bit id of three received bytes, the first in bits 7:0 (R53). -/
def jedecOfBytes (r : List Byte) : JedecId := r.getD 2 0 ++ r.getD 1 0 ++ r.getD 0 0

/-- The 64-bit id of eight received bytes, the first the most significant (R54). -/
def uidOfBytes (u : List Byte) : UniqueId :=
  u.getD 0 0 ++ u.getD 1 0 ++ u.getD 2 0 ++ u.getD 3 0 ++ u.getD 4 0 ++ u.getD 5 0 ++ u.getD 6 0 ++
    u.getD 7 0

/-- The five required capabilities are present (R180 step 1). -/
def Straps.required (p : Straps) : Bool :=
  p.hasTx && p.hasRx && p.hasCsAssert && p.hasCsDeassert && p.hasDelay

end Sys2Proof.Machine
end

