-- ==== Sys2Proof/Machine/Ops.lean ====
section
/-! DEFINITION. The operations every meaning is built from: the transport primitives (R110 to R117), the
command frames (R118 to R135), the return of a result (R12, R270), the gate (R272), the lock bracket
(R289), and the block's reset (R300). -/

namespace Sys2Proof.Machine

/-- The outcome of a step of this machine. -/
abbrev Out := Host.Outcome State Fault Refusal

/-! ### Transport primitives (Layer T) -/

/-- An event appended to the trace (R11). -/
def State.emit (s : State) (ev : Event) : State := { s with trace := s.trace ++ [ev] }

/-- CS_LOW (R110). -/
def State.csLow (s : State) : State := { s.emit .csLow with env := s.env.select }

/-- CS_HIGH (R111). -/
def State.csHigh (s : State) : State := { s.emit .csHigh with env := s.env.deselect }

/-- TX (R112). -/
def State.transmit (s : State) (bytes : List Byte) : State :=
  { s.emit (.tx bytes) with env := s.env.send bytes }

/-- RX (R113): exactly `n` bytes, chosen by the environment. -/
def State.receive (s : State) (n : Nat) : List Byte × State :=
  match Environment.answers n s.env with
  | (bytes, env) => (bytes, { s.emit (.rx bytes) with env := env })

/-- DELAY (R114). -/
def State.delay (s : State) (us : Nat) : State := s.emit (.delay us)

/-- LOCK where it returns (R115). -/
def State.takeLock (s : State) : State := if s.config.straps.hasLock then s.emit .lock else s

/-- UNLOCK (R116). -/
def State.dropLock (s : State) : State := if s.config.straps.hasUnlock then s.emit .unlock else s

/-- FRAME (R117). -/
def State.frame (s : State) (bytes : List Byte) (nRx : Nat) : List Byte × State :=
  let s := s.csLow.transmit bytes
  if 0 < nRx then
    match s.receive nRx with
    | (r, s) => (r, s.csHigh)
  else ([], s.csHigh)

/-- FRAME with nothing received. -/
def State.sendFrame (s : State) (bytes : List Byte) : State := (s.frame bytes 0).2

/-! ### Command frames (Layer C) -/

/-- WREN (R118), the whole of WRITE_ENABLE_SEQ (R208). -/
def State.cmdWren (s : State) : State := s.sendFrame [0x06]
/-- WRDI (R119). -/
def State.cmdWrdi (s : State) : State := s.sendFrame [0x04]
/-- RDP (R120). -/
def State.cmdRdp (s : State) : State := s.sendFrame [0xAB]
/-- DPD (R121). -/
def State.cmdDpd (s : State) : State := s.sendFrame [0xB9]
/-- RDID (R122). -/
def State.cmdRdid (s : State) : JedecId × State :=
  match s.frame [0x9F] 3 with
  | (r, s) => (jedecOfBytes r, s)
/-- RUID (R123). -/
def State.cmdRuid (s : State) : UniqueId × State :=
  match s.frame (0x4B :: List.replicate Params.uidDummy Params.dummyValue) 8 with
  | (u, s) => (uidOfBytes u, s)
/-- FREAD (R124), MemRead. -/
def State.cmdFread (s : State) (addr : Addr) (n : Nat) : List Byte × State :=
  s.frame (0x0B :: addrBytes addr ++ List.replicate Params.fastReadDummy Params.dummyValue) n
/-- PP (R125), MemWrite. -/
def State.cmdPp (s : State) (addr : Addr) (payload : List Byte) : State :=
  s.sendFrame (0x02 :: addrBytes addr ++ payload)
/-- SE (R126). -/
def State.cmdSe (s : State) (addr : Addr) : State := s.sendFrame (0x20 :: addrBytes addr)
/-- BE32 (R127). -/
def State.cmdBe32 (s : State) (addr : Addr) : State := s.sendFrame (0x52 :: addrBytes addr)
/-- BE64 (R128). -/
def State.cmdBe64 (s : State) (addr : Addr) : State := s.sendFrame (0xD8 :: addrBytes addr)
/-- CE (R129). -/
def State.cmdCe (s : State) : State := s.sendFrame [0xC7]
/-- RDSR1 (R130). -/
def State.cmdRdsr1 (s : State) : Byte × State :=
  match s.frame [0x05] 1 with
  | (r, s) => (r.getD 0 0, s)
/-- RDSR2 (R131). -/
def State.cmdRdsr2 (s : State) : Byte × State :=
  match s.frame [0x35] 1 with
  | (r, s) => (r.getD 0 0, s)
/-- RDSR3 (R132). -/
def State.cmdRdsr3 (s : State) : Byte × State :=
  match s.frame [0x15] 1 with
  | (r, s) => (r.getD 0 0, s)
/-- WRSR1 (R133). -/
def State.cmdWrsr1 (s : State) (v : Byte) : State := s.sendFrame [0x01, v]
/-- WRSR2 (R134). -/
def State.cmdWrsr2 (s : State) (v : Byte) : State := s.sendFrame [0x31, v]
/-- WRSR3 (R135). -/
def State.cmdWrsr3 (s : State) (v : Byte) : State := s.sendFrame [0x11, v]

/-! ### Results, the gate, the lock bracket, reset -/

/-- The end of an operation: the result record is presented and SEQ is IDLE again (R12, R31, R287). -/
def State.finish (s : State) (r : Result) : State := { s with result := r, seq := .idle }

/-- A result record that carries a status alone (R12). -/
def Result.ofStatus (k : ErrorKind) : Result := { Result.zero with status := k }

/-- A result record of an Ok operation that returns a value (R12). -/
def Result.ofValue (v : BitVec 64) : Result := { Result.zero with value := v }

/-- A result record of an Ok READ (R12). -/
def Result.ofData (d : List Byte) : Result := { Result.zero with data := d }

/-- A result record of an operation that ends in a busy-wait (R12). -/
def Result.ofWait (k : ErrorKind) (remaining : Nat) : Result :=
  { Result.zero with status := k, remainingMs := remaining }

/-- `raise` (R270): the operation ends with an error kind. -/
def State.raise (s : State) (k : ErrorKind) : Out := .next (s.finish (Result.ofStatus k))

/-- The gate (R272). -/
def gate (s : State) (k : State → Out) : Out :=
  if s.initialized then k s else s.raise .notInitialized

/-- A call of LOCK returns (R115): the capability is absent or the host grants it. -/
def State.lockReturns (s : State) : Bool := !s.config.straps.hasLock || s.env.lockGrants

/-- The opening of the lock bracket (R289); where LOCK never returns the operation is stuck (U17). -/
def withLock (s : State) (k : State → Out) : Out :=
  if s.lockReturns then k s.takeLock else .fault .lockNeverGranted

/-- The block's reset (R300): every register of the Device Instance zero, SEQ idle; no transport event. The
configuration, the host port, the result record, the trace and the environment are not registers of the
instance (log entry 11). -/
def State.hardReset (s : State) : State :=
  { s with
    pageSize := 0, sectorSize := 0, blockSize := 0, blockCount := 0, sectorCount := 0, pageCount := 0
    totalSize := 0, jedecId := 0, uniqueId := 0, manufacturer := .unknown, model := .modelUnknown
    initialized := false, sr1 := 0, sr2 := 0, sr3 := 0, pdCount := 0, powerMode := .idle, seq := .idle }

/-- What a request that is no instruction does: a reserved op_sel ends with InvalidParameters, before the
gate (R90, R273); bytes that are no frame have no meaning (R85, log entry 16). -/
def rejectRequest (e : DecodeError) (s : State) : Out :=
  match e with
  | .reservedOpSel _ => s.raise .invalidParameters
  | .unknownOpcode _ => .refused .notAFrame
  | .badFrame => .refused .notAFrame

end Sys2Proof.Machine
end

