-- ==== Sys2Proof/Machine/BusyWait.lean ====
section
/-! DEFINITION. The busy-wait (R205), the mutating-operation template (R211), and the meanings of WAIT_BUSY,
WRITE_ENABLE and WRITE_DISABLE (R207, R209, R210). -/

namespace Sys2Proof.Machine

/-- The polls of a busy-wait (R205): `ctr` microseconds left; the first argument bounds the polls still to
come and is one more than the counter allows, so that it never ends the loop (log entry 17). -/
def waitLoop : Nat → Nat → State → (ErrorKind × Nat) × State
  | 0, _, s => ((.fail, 0), s)
  | fuel + 1, ctr, s =>
    match s.receive 1 with
    | (r, s) =>
      let sr := r.getD 0 0
      let s := { s with sr1 := sr }.delay Params.pollIntervalUs
      let ctr := if Params.pollIntervalUs ≤ ctr then ctr - Params.pollIntervalUs else 0
      if busyFlag sr = false then ((.ok, ctr / 1000), s)
      else if ctr = 0 then ((.fail, 0), s)
      else waitLoop fuel ctr s

/-- WAIT (R205): status and remaining milliseconds; the polls share one frame (R136). -/
def State.wait (s : State) (ms : Nat) : (ErrorKind × Nat) × State :=
  let ctr := ms * 1000
  let w := waitLoop (ctr / Params.pollIntervalUs + 1) ctr ((s.csLow.transmit [0x05]).receive 1).2
  (w.1, w.2.csHigh)

/-- The budget fits the microsecond counter (R205, U4). -/
def budgetFits (ms : Nat) : Bool := decide (ms * 1000 < Params.counterLimit)

/-- The end of an operation whose status is that of its wait: UNLOCK, then the wait's status and remaining
milliseconds in the result record (R211, R275). -/
def endWait (w : (ErrorKind × Nat) × State) : Out :=
  .next (w.2.dropLock.finish (Result.ofWait w.1.1 w.1.2))

/-- The mutating-operation template from its LOCK on (R211): write-enable, the command, the wait, UNLOCK,
and the wait's status as the operation's. -/
def mutating (cmd : State → State) (budget : Nat) (s : State) : Out :=
  withLock s fun s => endWait ((cmd s.cmdWren).wait budget)

/-- WAIT_BUSY (R207). A budget that does not fit the counter ends with InvalidParameters (U4, log entry 10). -/
def execWaitBusy (budget : Word) (s : State) : Out :=
  gate s fun s =>
    if budgetFits budget.toNat then withLock s fun s => endWait (s.wait budget.toNat)
    else s.raise .invalidParameters

/-- WRITE_ENABLE (R209). -/
def execWriteEnable (s : State) : Out :=
  gate s fun s => withLock s fun s => .next (s.cmdWren.dropLock.finish Result.zero)

/-- WRITE_DISABLE (R210). -/
def execWriteDisable (s : State) : Out :=
  gate s fun s => withLock s fun s => .next (s.cmdWrdi.dropLock.finish Result.zero)

end Sys2Proof.Machine
end

