-- ==== Sys2Proof/Machine/Erase.lean ====
section
/-! DEFINITION. The erase operations (R240 to R244): the address goes out as computed. -/

namespace Sys2Proof.Machine

/-- An addressed erase after the gate: the range check, then the mutating template (R240, R244). -/
def eraseAt (cmd : State → Addr → State) (budget ea : Nat) (s : State) : Out :=
  if s.eraseRangeBad ea then s.raise .outOfRange
  else mutating (fun s => cmd s (frameAddr ea)) budget s

/-- ERASE_4K (R240). -/
def execErase4k (unit : AddrUnit) (index offset : Word) (s : State) : Out :=
  gate s fun s => eraseAt State.cmdSe Params.tSe4kMs (s.effAddr unit index offset) s

/-- ERASE_32K (R241). -/
def execErase32k (unit : AddrUnit) (index offset : Word) (s : State) : Out :=
  gate s fun s => eraseAt State.cmdBe32 Params.tBe32kMs (s.effAddr unit index offset) s

/-- ERASE_64K (R242). -/
def execErase64k (unit : AddrUnit) (index offset : Word) (s : State) : Out :=
  gate s fun s => eraseAt State.cmdBe64 Params.tBe64kMs (s.effAddr unit index offset) s

/-- ERASE_CHIP (R243): no address, so no range check. -/
def execEraseChip (s : State) : Out := gate s fun s => mutating State.cmdCe Params.tCeMs s

end Sys2Proof.Machine
end

