-- ==== Sys2Proof/Machine/Frames.lean ====
section
/-! DEFINITION. The meanings of the nineteen SPI command frames (space spi_frame of the opcode table): one
emission of the frame, its result record what the frame returns (R118 to R136). A lone frame has no gate
and no lock (log entry 8). -/

namespace Sys2Proof.Machine

/-- WREN (R118). -/
def execWren (s : State) : Out := .next (s.cmdWren.finish Result.zero)
/-- WRDI (R119). -/
def execWrdi (s : State) : Out := .next (s.cmdWrdi.finish Result.zero)
/-- RDP (R120). -/
def execRdp (s : State) : Out := .next (s.cmdRdp.finish Result.zero)
/-- DPD (R121). -/
def execDpd (s : State) : Out := .next (s.cmdDpd.finish Result.zero)
/-- RDID (R122). -/
def execRdid (s : State) : Out :=
  match s.cmdRdid with
  | (id, s) => .next (s.finish (Result.ofValue (id.zeroExtend 64)))
/-- RUID (R123). -/
def execRuid (s : State) : Out :=
  match s.cmdRuid with
  | (uid, s) => .next (s.finish (Result.ofValue uid))
/-- FREAD (R124). -/
def execFread (addr : Addr) (count : Nat) (s : State) : Out :=
  match s.cmdFread addr count with
  | (d, s) => .next (s.finish (Result.ofData d))
/-- PP (R125). -/
def execPp (addr : Addr) (payload : List Byte) (s : State) : Out :=
  .next ((s.cmdPp addr payload).finish Result.zero)
/-- SE (R126). -/
def execSe (addr : Addr) (s : State) : Out := .next ((s.cmdSe addr).finish Result.zero)
/-- BE32 (R127). -/
def execBe32 (addr : Addr) (s : State) : Out := .next ((s.cmdBe32 addr).finish Result.zero)
/-- BE64 (R128). -/
def execBe64 (addr : Addr) (s : State) : Out := .next ((s.cmdBe64 addr).finish Result.zero)
/-- CE (R129). -/
def execCe (s : State) : Out := .next (s.cmdCe.finish Result.zero)
/-- RDSR1 (R130): the frame itself writes no cache slot. -/
def execRdsr1 (s : State) : Out :=
  match s.cmdRdsr1 with
  | (v, s) => .next (s.finish (Result.ofValue (v.zeroExtend 64)))
/-- RDSR2 (R131). -/
def execRdsr2 (s : State) : Out :=
  match s.cmdRdsr2 with
  | (v, s) => .next (s.finish (Result.ofValue (v.zeroExtend 64)))
/-- RDSR3 (R132). -/
def execRdsr3 (s : State) : Out :=
  match s.cmdRdsr3 with
  | (v, s) => .next (s.finish (Result.ofValue (v.zeroExtend 64)))
/-- WRSR1 (R133). -/
def execWrsr1 (v : Byte) (s : State) : Out := .next ((s.cmdWrsr1 v).finish Result.zero)
/-- WRSR2 (R134). -/
def execWrsr2 (v : Byte) (s : State) : Out := .next ((s.cmdWrsr2 v).finish Result.zero)
/-- WRSR3 (R135). -/
def execWrsr3 (v : Byte) (s : State) : Out := .next ((s.cmdWrsr3 v).finish Result.zero)
/-- POLL (R136): the polling frame of one WAIT; its polls write S.sr1 (R205). A budget that does not fit the
counter ends with InvalidParameters (U4, log entry 10). -/
def execPoll (budget : Word) (s : State) : Out :=
  if budgetFits budget.toNat then
    let w := s.wait budget.toNat
    .next (w.2.finish (Result.ofWait w.1.1 w.1.2))
  else s.raise .invalidParameters

end Sys2Proof.Machine
end

