-- ==== Sys2Proof/Machine/Identify.lean ====
section
/-! DEFINITION. Device identification (R150 to R152) and geometry derivation (R153). -/

namespace Sys2Proof.Machine

/-- The first entry of MFR_TABLE for a manufacturer byte, with its place in the table and the number of
model codes in the entries before it. -/
def findEntry (key : Byte) (place before : Nat) : List MfrEntry → Option (MfrEntry × Nat × Nat)
  | [] => none
  | e :: rest =>
    if e.mfrByte = key then some (e, place, before)
    else findEntry key (place + 1) (before + e.modelTable.length) rest

/-- The place of a code in a model table. -/
def findCode (code : BitVec 16) : List (BitVec 16) → Option Nat
  | [] => none
  | c :: rest => if c = code then some 0 else (findCode code rest).map (· + 1)

/-- The table entry of an id's manufacturer byte, id bits 7:0 (R150). -/
def Config.entryOf (c : Config) (id : JedecId) : Option (MfrEntry × Nat × Nat) :=
  findEntry (id.extractLsb' 0 8) 0 0 c.mfrTable

/-- interpretManufacturer (R150). -/
def Config.interpretManufacturer (c : Config) (id : JedecId) : ManufacturerCode :=
  match Config.entryOf c id with
  | some (_, place, _) => .member place
  | none => .unknown

/-- The model code of an id under MODEL_SEL (R151). -/
def modelCodeOf (sel : ModelSel) (id : JedecId) : BitVec 16 :=
  match sel with
  | .sel23_16 => (id.extractLsb' 16 8).zeroExtend 16
  | .sel23_8 => id.extractLsb' 8 16

/-- interpretModel (R151). -/
def Config.interpretModel (c : Config) (id : JedecId) : ModelCode :=
  match Config.entryOf c id with
  | some (e, _, before) =>
    match findCode (modelCodeOf e.modelSel id) e.modelTable with
    | some k => .member (before + k)
    | none => .modelUnknown
  | none => .modelUnknown

/-- The density byte DENSITY_SEL names (R152). -/
def densityByte (sel : DensitySel) (id : JedecId) : Option Byte :=
  match sel with
  | .noDensity => none
  | .bits7_0 => some (id.extractLsb' 0 8)
  | .bits15_8 => some (id.extractLsb' 8 8)
  | .bits23_16 => some (id.extractLsb' 16 8)

/-- `n` doubled `k` times (R152, "repeated doubling"). -/
def doubled (n : Nat) : Nat → Nat
  | 0 => n
  | k + 1 => doubled (n + n) k

/-- blockCountFromId (R152): 0 for no density scheme, a density byte below the offset, or a count that does
not fit 32 bits. -/
def Config.blockCountFromId (c : Config) (id : JedecId) : Nat :=
  match Config.entryOf c id with
  | none => 0
  | some (e, _, _) =>
    match densityByte e.densitySel id with
    | none => 0
    | some d =>
      if d.toNat < e.densityOffset.toNat then 0
      else
        let idx := d.toNat - e.densityOffset.toNat
        if 31 < idx + 1 then 0 else doubled 1 (idx + 1)

/-- deriveGeometry (R153), for a block count from 1 to 65535. -/
def State.deriveGeometry (s : State) (bc : Nat) : State :=
  let sectorCount := bc * (Params.blockSize / Params.sectorSize)
  { s with
    pageSize := BitVec.ofNat 32 Params.pageSize
    sectorSize := BitVec.ofNat 32 Params.sectorSize
    blockSize := BitVec.ofNat 32 Params.blockSize
    blockCount := BitVec.ofNat 32 bc
    sectorCount := BitVec.ofNat 32 sectorCount
    pageCount := BitVec.ofNat 32 (sectorCount * Params.sectorSize / Params.pageSize)
    totalSize := BitVec.ofNat 32 (sectorCount * Params.sectorSize) }

end Sys2Proof.Machine
end

