-- ==== Sys2Proof/Machine/Identification.lean ====
section
/-! DEFINITION. The meanings of ID_MANUFACTURER, ID_MODEL and ID_BLOCKCOUNT (R154 to R156): not gated, no
event, no register written. -/

namespace Sys2Proof.Machine

/-- ID_MANUFACTURER (R154). -/
def execIdManufacturer (id : JedecId) (s : State) : Out :=
  .next (s.finish (Result.ofValue (BitVec.ofNat 64 (Config.interpretManufacturer s.config id).code)))

/-- ID_MODEL (R155). -/
def execIdModel (id : JedecId) (s : State) : Out :=
  .next (s.finish (Result.ofValue (BitVec.ofNat 64 (Config.interpretModel s.config id).code)))

/-- ID_BLOCKCOUNT (R156). -/
def execIdBlockcount (id : JedecId) (s : State) : Out :=
  .next (s.finish (Result.ofValue (BitVec.ofNat 64 (Config.blockCountFromId s.config id))))

end Sys2Proof.Machine
end

