-- ==== Sys2Proof/Machine/Init.lean ====
section
/-! DEFINITION. Initialization: the meanings of INIT and INIT_NOID (R180 to R183). -/

namespace Sys2Proof.Machine

/-- The bus brought to a known state and the chip woken (R180 steps 3 and 4). -/
def State.wakeBus (s : State) : State :=
  { (s.csHigh.delay Params.initSettleUs).cmdRdp with pdCount := 0, powerMode := .idle }

/-- An id that means "bus fault / no chip" (R277). -/
def noChip (id : JedecId) : Bool := decide (id = 0x000000) || decide (id = 0xFFFFFF)

/-- Steps 3 to 7 of R180: wake, read the id, refuse a missing chip, decode. The continuation gets the id. -/
def identify (s : State) (k : JedecId → State → Out) : Out :=
  match s.wakeBus.cmdRdid with
  | (id, s) =>
    let s := { s with jedecId := id }
    if noChip id then s.raise .noMemoryFound
    else
      k id { s with
        manufacturer := Config.interpretManufacturer s.config id
        model := Config.interpretModel s.config id }

/-- Step 9 of R180: the unique id read and kept. -/
def State.readUid (s : State) : State :=
  match s.cmdRuid with
  | (uid, s) => { s with uniqueId := uid }

/-- Step 12 of R180: the three status registers read in order and cached. -/
def State.primeStatus (s : State) : State :=
  match s.cmdRdsr1 with
  | (v1, s) =>
    match { s with sr1 := v1 }.cmdRdsr2 with
    | (v2, s) =>
      match { s with sr2 := v2 }.cmdRdsr3 with
      | (v3, s) => { s with sr3 := v3 }

/-- Steps 11 to 14 of R180: geometry, status cache, and the initialized flag last. -/
def State.complete (s : State) (bc : Nat) : State :=
  { (s.deriveGeometry bc).primeStatus with initialized := true }.finish Result.zero

/-- A block count the geometry registers can hold (R23, R153). -/
def blockCountFits (bc : Nat) : Bool := decide (bc ≠ 0) && decide (bc ≤ Params.blockCountMax)

/-- INIT (R180). -/
def execInit (s : State) : Out :=
  if !Straps.required s.config.straps then s.raise .invalidParameters
  else if s.initialized then s.raise .ok
  else
    identify s fun id s =>
      if s.model = .modelUnknown then s.raise .unknownDevice
      else
        let s := s.readUid
        let bc := Config.blockCountFromId s.config id
        if blockCountFits bc then .next (s.complete bc) else s.raise .unknownDevice

/-- INIT_NOID (R181). -/
def execInitNoid (blockCount : Word) (s : State) : Out :=
  if !Straps.required s.config.straps then s.raise .invalidParameters
  else if !blockCountFits blockCount.toNat then s.raise .invalidParameters
  else if s.initialized then s.raise .ok
  else identify s fun _ s => .next (s.readUid.complete blockCount.toNat)

end Sys2Proof.Machine
end

