-- ==== Sys2Proof/Machine/PowerDown.lean ====
section
/-! DEFINITION. The power-down state machine: the meanings of ENTER_PD and EXIT_PD (R195 to R197). -/

namespace Sys2Proof.Machine

/-- ENTER_PD (R195). -/
def execEnterPd (s : State) : Out :=
  gate s fun s =>
    withLock s fun s =>
      if s.pdCount = Params.pdCountMax then s.dropLock.raise .fail
      else
        let s := if s.pdCount = 0 then { s.cmdDpd with powerMode := .deepPowerDown } else s
        .next ({ s with pdCount := s.pdCount + 1 }.dropLock.finish Result.zero)

/-- The body of EXIT_PD between LOCK and UNLOCK (R196). -/
def State.releasePd (s : State) : State :=
  if s.pdCount = 0 then s
  else
    let s := { s with pdCount := s.pdCount - 1 }
    if s.pdCount = 0 then { s.cmdRdp with powerMode := .idle } else s

/-- EXIT_PD (R196). -/
def execExitPd (s : State) : Out :=
  gate s fun s => withLock s fun s => .next (s.releasePd.dropLock.finish Result.zero)

end Sys2Proof.Machine
end

