-- ==== Sys2Proof/Machine/ReadWrite.lean ====
section
/-! DEFINITION. The read path, the write splitter and the id reads: the meanings of READ, WRITE, RD_JEDEC and
RD_UID (R220 to R226). -/

namespace Sys2Proof.Machine

/-- READ (R222), after the checks of R220. -/
def execRead (unit : AddrUnit) (index offset len : Word) (s : State) : Out :=
  gate s fun s =>
    let ea := s.effAddr unit index offset
    if len = 0 then s.raise .invalidParameters
    else if s.rangeBad ea len.toNat then s.raise .outOfRange
    else
      withLock s fun s =>
        match s.cmdFread (frameAddr ea) len.toNat with
        | (d, s) => .next (s.dropLock.finish (Result.ofData d))

/-- The bytes from an address to the next page boundary (R223). -/
def State.room (s : State) (a : Nat) : Nat := s.pageSize.toNat - a % s.pageSize.toNat

/-- The bytes the next program command carries of `rem` that remain (R223). -/
def State.chunk (s : State) (a rem : Nat) : Nat := if s.room a < rem then s.room a else rem

/-- The loop of the write splitter (R223) over the bytes that remain. The first argument bounds the chunks;
every chunk has a byte where the page size is not zero, so the number of bytes is enough (log entries 13
and 17). -/
def writeLoop : Nat → Nat → List Byte → State → ErrorKind × State
  | 0, _, _, s => (.ok, s)
  | fuel + 1, a, rest, s =>
    if rest.length = 0 then (.ok, s)
    else
      let chunk := s.chunk a rest.length
      let w := (s.cmdWren.cmdPp (frameAddr a) (rest.take chunk)).wait Params.tPpMs
      if w.1.1 = .fail then (.fail, w.2) else writeLoop fuel (a + chunk) (rest.drop chunk) w.2

/-- The loop and the final wait (R223, D20). -/
def State.program (s : State) (ea : Nat) (data : List Byte) : (ErrorKind × Nat) × State :=
  let w := writeLoop data.length ea data s
  if w.1 = .fail then ((.fail, 0), w.2) else w.2.wait Params.tPpMs

/-- WRITE (R223), after the checks of R220. -/
def execWrite (unit : AddrUnit) (index offset len : Word) (data : List Byte) (s : State) : Out :=
  gate s fun s =>
    let ea := s.effAddr unit index offset
    if len = 0 ∨ data.length ≠ len.toNat then s.raise .invalidParameters
    else if s.rangeBad ea len.toNat then s.raise .outOfRange
    else
      withLock s fun s => endWait (s.program ea data)

/-- RD_JEDEC (R225). -/
def execRdJedec (s : State) : Out :=
  gate s fun s =>
    withLock s fun s =>
      match s.cmdRdid with
      | (id, s) => .next (s.dropLock.finish (Result.ofValue (id.zeroExtend 64)))

/-- RD_UID (R226). -/
def execRdUid (s : State) : Out :=
  gate s fun s =>
    withLock s fun s =>
      match s.cmdRuid with
      | (uid, s) => .next (s.dropLock.finish (Result.ofValue uid))

end Sys2Proof.Machine
end

