-- ==== Sys2Proof/Machine/Scanner.lean ====
section
/-! DEFINITION. The empty-region scanner: the meaning of IS_EMPTY (R265, R266). -/

namespace Sys2Proof.Machine

/-- The loop of the scanner (R265): `rem` bytes from address `a` still to probe, each probe in its own lock
bracket. The first argument bounds the probes; every probe has a byte, so the length is enough (log entry
17). -/
def scanLoop : Nat → Nat → Nat → State → ErrorKind × State
  | 0, _, _, s => (.ok, s)
  | fuel + 1, a, rem, s =>
    if rem = 0 then (.ok, s)
    else
      let n := min s.config.probeSize rem
      match s.takeLock.cmdFread (frameAddr a) n with
      | (d, s) =>
        let s := s.dropLock
        if d.all (· == Params.erasedByte) then scanLoop fuel (a + n) (rem - n) s
        else (.regionIsNotEmpty, s)

/-- IS_EMPTY (R265), after the checks of R220. The first probe's LOCK decides whether the operation is stuck
(U17); the environment answers every LOCK of one operation alike (log entry 14). -/
def execIsEmpty (unit : AddrUnit) (index offset len : Word) (s : State) : Out :=
  gate s fun s =>
    let ea := s.effAddr unit index offset
    if len = 0 then s.raise .invalidParameters
    else if s.rangeBad ea len.toNat then s.raise .outOfRange
    else if s.lockReturns then
      let w := scanLoop len.toNat ea len.toNat s
      w.2.raise w.1
    else .fault .lockNeverGranted

end Sys2Proof.Machine
end

