-- ==== Sys2Proof/Machine/StatusRegs.lean ====
section
/-! DEFINITION. The status-register operations (R250 to R256): each register has its own cache slot (R27). -/

namespace Sys2Proof.Machine

/-- RD_SR1 (R250). -/
def execRdSr1 (s : State) : Out :=
  gate s fun s =>
    withLock s fun s =>
      match s.cmdRdsr1 with
      | (v, s) => .next ({ s with sr1 := v }.dropLock.finish (Result.ofValue (v.zeroExtend 64)))

/-- RD_SR2 (R251). -/
def execRdSr2 (s : State) : Out :=
  gate s fun s =>
    withLock s fun s =>
      match s.cmdRdsr2 with
      | (v, s) => .next ({ s with sr2 := v }.dropLock.finish (Result.ofValue (v.zeroExtend 64)))

/-- RD_SR3 (R252). -/
def execRdSr3 (s : State) : Out :=
  gate s fun s =>
    withLock s fun s =>
      match s.cmdRdsr3 with
      | (v, s) => .next ({ s with sr3 := v }.dropLock.finish (Result.ofValue (v.zeroExtend 64)))

/-- WR_SR1 (R253): slot 1 takes the value sent, then every polled byte. -/
def execWrSr1 (v : Byte) (s : State) : Out :=
  gate s (mutating (fun s => { s.cmdWrsr1 v with sr1 := v }) Params.tSrMs)

/-- WR_SR2 (R254): slot 2 keeps the value sent. -/
def execWrSr2 (v : Byte) (s : State) : Out :=
  gate s (mutating (fun s => { s.cmdWrsr2 v with sr2 := v }) Params.tSrMs)

/-- WR_SR3 (R255): slot 3 keeps the value sent. -/
def execWrSr3 (v : Byte) (s : State) : Out :=
  gate s (mutating (fun s => { s.cmdWrsr3 v with sr3 := v }) Params.tSrMs)

end Sys2Proof.Machine
end

