-- ==== Sys2Proof/Machine/Translator.lean ====
section
/-! DEFINITION. The address translator: the meanings of the six index conversions (R165 to R172). -/

namespace Sys2Proof.Machine

/-- A conversion (R171): the product first, on unbounded naturals, then the floor division, the result
modulo 2^32; gated, with no lock, no event and no state written. A divisor of zero is log entry 13. -/
def convert (index : Word) (fromSize toSize : State → Word) (s : State) : Out :=
  gate s fun s =>
    let value : Word := BitVec.ofNat 32 (index.toNat * (fromSize s).toNat / (toSize s).toNat)
    .next (s.finish (Result.ofValue (value.zeroExtend 64)))

/-- PAGE_TO_SECTOR (R165). -/
def execPageToSector (index : Word) (s : State) : Out := convert index State.pageSize State.sectorSize s
/-- PAGE_TO_BLOCK (R166). -/
def execPageToBlock (index : Word) (s : State) : Out := convert index State.pageSize State.blockSize s
/-- SECTOR_TO_BLOCK (R167). -/
def execSectorToBlock (index : Word) (s : State) : Out := convert index State.sectorSize State.blockSize s
/-- SECTOR_TO_PAGE (R168). -/
def execSectorToPage (index : Word) (s : State) : Out := convert index State.sectorSize State.pageSize s
/-- BLOCK_TO_PAGE (R169). -/
def execBlockToPage (index : Word) (s : State) : Out := convert index State.blockSize State.pageSize s
/-- BLOCK_TO_SECTOR (R170). -/
def execBlockToSector (index : Word) (s : State) : Out := convert index State.blockSize State.sectorSize s

end Sys2Proof.Machine
end

