-- ==== Sys2Proof/Machine/Dispatch.lean ====
section
/-! DEFINITION. exec: one arm per constructor of Instr, each one direct call of its meaning. -/

namespace Sys2Proof.Machine

def exec (i : Instr) (s : State) : Host.Outcome State Fault Refusal :=
  match i with
  | .wren => Sys2Proof.Machine.execWren s
  | .wrdi => Sys2Proof.Machine.execWrdi s
  | .rdp => Sys2Proof.Machine.execRdp s
  | .dpd => Sys2Proof.Machine.execDpd s
  | .rdid => Sys2Proof.Machine.execRdid s
  | .ruid => Sys2Proof.Machine.execRuid s
  | .fread addr count => Sys2Proof.Machine.execFread addr count s
  | .pp addr payload => Sys2Proof.Machine.execPp addr payload s
  | .se addr => Sys2Proof.Machine.execSe addr s
  | .be32 addr => Sys2Proof.Machine.execBe32 addr s
  | .be64 addr => Sys2Proof.Machine.execBe64 addr s
  | .ce => Sys2Proof.Machine.execCe s
  | .rdsr1 => Sys2Proof.Machine.execRdsr1 s
  | .rdsr2 => Sys2Proof.Machine.execRdsr2 s
  | .rdsr3 => Sys2Proof.Machine.execRdsr3 s
  | .wrsr1 v => Sys2Proof.Machine.execWrsr1 v s
  | .wrsr2 v => Sys2Proof.Machine.execWrsr2 v s
  | .wrsr3 v => Sys2Proof.Machine.execWrsr3 v s
  | .poll budget => Sys2Proof.Machine.execPoll budget s
  | .init => Sys2Proof.Machine.execInit s
  | .initNoid blockCount => Sys2Proof.Machine.execInitNoid blockCount s
  | .enterPd => Sys2Proof.Machine.execEnterPd s
  | .exitPd => Sys2Proof.Machine.execExitPd s
  | .read unit index offset len => Sys2Proof.Machine.execRead unit index offset len s
  | .write unit index offset len data => Sys2Proof.Machine.execWrite unit index offset len data s
  | .erase4k unit index offset => Sys2Proof.Machine.execErase4k unit index offset s
  | .erase32k unit index offset => Sys2Proof.Machine.execErase32k unit index offset s
  | .erase64k unit index offset => Sys2Proof.Machine.execErase64k unit index offset s
  | .eraseChip => Sys2Proof.Machine.execEraseChip s
  | .isEmpty unit index offset len => Sys2Proof.Machine.execIsEmpty unit index offset len s
  | .rdSr1 => Sys2Proof.Machine.execRdSr1 s
  | .rdSr2 => Sys2Proof.Machine.execRdSr2 s
  | .rdSr3 => Sys2Proof.Machine.execRdSr3 s
  | .wrSr1 v => Sys2Proof.Machine.execWrSr1 v s
  | .wrSr2 v => Sys2Proof.Machine.execWrSr2 v s
  | .wrSr3 v => Sys2Proof.Machine.execWrSr3 v s
  | .writeEnable => Sys2Proof.Machine.execWriteEnable s
  | .writeDisable => Sys2Proof.Machine.execWriteDisable s
  | .waitBusy budget => Sys2Proof.Machine.execWaitBusy budget s
  | .rdJedec => Sys2Proof.Machine.execRdJedec s
  | .rdUid => Sys2Proof.Machine.execRdUid s
  | .pageToSector index => Sys2Proof.Machine.execPageToSector index s
  | .pageToBlock index => Sys2Proof.Machine.execPageToBlock index s
  | .sectorToBlock index => Sys2Proof.Machine.execSectorToBlock index s
  | .sectorToPage index => Sys2Proof.Machine.execSectorToPage index s
  | .blockToPage index => Sys2Proof.Machine.execBlockToPage index s
  | .blockToSector index => Sys2Proof.Machine.execBlockToSector index s
  | .idManufacturer id => Sys2Proof.Machine.execIdManufacturer id s
  | .idModel id => Sys2Proof.Machine.execIdModel id s
  | .idBlockcount id => Sys2Proof.Machine.execIdBlockcount id s

end Sys2Proof.Machine
end

