-- ==== Sys2Proof/Machine/Step.lean ====
section
/-! DEFINITION. One step: in IDLE the block takes what the host presents next and runs it to completion
(R31, R301); and where a word is put for the next step to fetch it. -/

namespace Sys2Proof.Machine

/-- One step. With nothing presented the block waits in IDLE (R301); while SEQ is not IDLE nothing may be
presented (U1, U2). -/
def step (s : State) : Host.Outcome State Fault Refusal :=
  match s.seq, s.port with
  | .run _, .hardReset :: _ => .refused .resetWhileRunning
  | .run _, _ => .refused .operationWhileRunning
  | .idle, [] => .next s
  | .idle, .hardReset :: rest => .next { s.hardReset with port := rest }
  | .idle, .issue r :: rest =>
    match decode r with
    | .ok i => exec i { s with port := rest, seq := .run i }
    | .error e => rejectRequest e { s with port := rest }

/-- `s` with the instruction of bits `w` presented next at the host port (log entry 8). -/
def State.withFetchWord (s : State) (nbits w : Nat) : State :=
  { s with port := .issue (tableRequest nbits w) :: s.port }

end Sys2Proof.Machine
end

