-- ==== Sys2Proof/Safety.lean ====
section
/-! DEFINITION. The terms claims are stated in: the events of a frame, of a polling frame and of a lock
bracket, what a busy-wait may do, the discipline of the bus and of the lock, and the invariants of the
state. No meaning of an instruction uses them. -/

namespace Sys2Proof.Safety

open Sys2Proof.Machine

/-! ### Traces -/

/-- The events of one frame (R117): a frame that receives nothing has no RX event. -/
def frameEvents (bytes received : List Byte) : List Event :=
  .csLow :: .tx bytes :: ((if received = [] then [] else [.rx received]) ++ [.csHigh])

/-- The events of one polling frame (R136): the dummy byte, then each polled byte with its delay. -/
def pollEvents (dummy : Byte) (polls : List Byte) : List Event :=
  [.csLow, .tx [0x05], .rx [dummy]] ++ polls.flatMap (fun b => [.rx [b], .delay 100]) ++ [.csHigh]

/-- The LOCK event, where the capability is present (R115). -/
def lockEvents (s : State) : List Event := if s.config.straps.hasLock then [.lock] else []

/-- The UNLOCK event, where the capability is present (R116). -/
def unlockEvents (s : State) : List Event := if s.config.straps.hasUnlock then [.unlock] else []

/-- A lock bracket around events (R289). -/
def bracketed (s : State) (body : List Event) : List Event := lockEvents s ++ body ++ unlockEvents s

/-- The transmitted bytes of the frames among some events, in order. -/
def txFrames : List Event → List (List Byte)
  | [] => []
  | .tx bytes :: rest => bytes :: txFrames rest
  | _ :: rest => txFrames rest

/-- The bytes received by the RX events among some events, in order. -/
def rxData : List Event → List (List Byte)
  | [] => []
  | .rx bytes :: rest => bytes :: rxData rest
  | _ :: rest => rxData rest

/-! ### The busy-wait -/

/-- N of R206: the number of 100-microsecond steps in a budget, at least one. -/
def maxPolls (ms : Nat) : Nat := max 1 (ms * 10)

/-- What a busy-wait with a budget may poll and answer (R205, R206): every byte but the last is busy, bit 0 set
(R91); it ends with Ok at the first byte that is not, and with Fail at a busy byte that is the budget's last. -/
def WaitsAs (ms : Nat) (polls : List Byte) (status : ErrorKind) (remaining : Nat) : Prop :=
  ∃ before last,
    polls = before ++ [last] ∧ before.length < maxPolls ms ∧ (∀ b ∈ before, b.getLsbD 0 = true) ∧
      ((last.getLsbD 0 = false ∧ status = .ok ∧ remaining = (ms * 1000 - 100 * polls.length) / 1000) ∨
        (last.getLsbD 0 = true ∧ polls.length = maxPolls ms ∧ status = .fail ∧ remaining = 0))

/-! ### The write splitter and the scanner -/

/-- One chunk of a WRITE as it was carried out (R223): where, which bytes, and what its wait received. -/
structure ChunkRun where
  addr    : Nat
  payload : List Byte
  dummy   : Byte
  polls   : List Byte
  deriving DecidableEq, Repr

/-- The page-program frame of a chunk (R125). -/
def ChunkRun.frame (c : ChunkRun) : List Byte := 0x02 :: addrBytes (frameAddr c.addr) ++ c.payload

/-- The events of one chunk: write-enable, page program, wait (R223). -/
def chunkEvents (c : ChunkRun) : List Event :=
  frameEvents [0x06] [] ++ frameEvents c.frame [] ++ pollEvents c.dummy c.polls

/-- The environment after the write-enable and the program frame of a chunk. -/
def ChunkRun.sent (c : ChunkRun) (e : Environment) : Environment :=
  ((e.frame [0x06] 0).2.frame c.frame 0).2

/-- Chunks that carry `data` from address `a` on, through an environment `e`, and leave `left` of it: each takes
what remains up to the next page boundary, and its wait receives what the environment answers (R223, R224). -/
def ChunksFrom (page : Nat) : Environment → Nat → List Byte → List ChunkRun → List Byte → Environment → Prop
  | e, _, data, [], left, e' => left = data ∧ e' = e
  | e, a, data, c :: rest, left, e' =>
    data ≠ [] ∧ c.addr = a ∧ c.payload = data.take (page - a % page) ∧
      c.dummy :: c.polls = ((c.sent e).frame [0x05] (c.polls.length + 1)).1 ∧
      ChunksFrom page ((c.sent e).frame [0x05] (c.polls.length + 1)).2 (a + c.payload.length)
        (data.drop c.payload.length) rest left e'

/-- One probe of IS_EMPTY as it was carried out (R265): where, and what it received. -/
structure ProbeRun where
  addr     : Nat
  received : List Byte
  deriving DecidableEq, Repr

/-- The fast-read frame of a probe (R124). -/
def ProbeRun.frame (p : ProbeRun) : List Byte := 0x0B :: addrBytes (frameAddr p.addr) ++ [0x00]

/-- The events of one probe, in its own lock bracket (R265, R289). -/
def probeEvents (s : State) (p : ProbeRun) : List Event := bracketed s (frameEvents p.frame p.received)

/-- Probes of at most `size` bytes that read `rem` bytes from address `a` on, through an environment `e`, and
leave `left` unread. -/
def ProbesFrom (size : Nat) : Environment → Nat → Nat → List ProbeRun → Nat → Environment → Prop
  | e, _, rem, [], left, e' => left = rem ∧ e' = e
  | e, a, rem, p :: rest, left, e' =>
    0 < rem ∧ p.addr = a ∧ p.received = (e.frame p.frame (min size rem)).1 ∧
      ProbesFrom size (e.frame p.frame (min size rem)).2 (a + min size rem) (rem - min size rem) rest left e'

/-- A probe that received erased bytes only. -/
def ProbeRun.erased (p : ProbeRun) : Bool := p.received.all (· == 0xFF)

/-! ### Outcomes -/

/-- The operation ended in a busy-wait with a budget, in its lock bracket, and did nothing else to `base`
but what a wait does (R211): the events `body` before the wait, the bytes polled those that the environment
`e` answers, S.sr1 the last of them, and the wait's status and remaining milliseconds in the result
record. -/
def EndsInWait (s base : State) (body : List Event) (e : Environment) (ms : Nat) (out : Out) : Prop :=
  ∃ dummy before last status remaining,
    dummy :: (before ++ [last]) = (e.frame [0x05] (before.length + 2)).1 ∧
    WaitsAs ms (before ++ [last]) status remaining ∧
    out = .next { base with
      sr1 := last
      trace := s.trace ++ bracketed s (body ++ pollEvents dummy (before ++ [last]))
      env := (e.frame [0x05] (before.length + 2)).2
      result := Result.ofWait status remaining
      seq := .idle }

/-- Several instructions executed in order, stopping where one stops. -/
def execAll : List Instr → State → Out
  | [], s => .next s
  | i :: rest, s =>
    match exec i s with
    | .next t => execAll rest t
    | .fault f => .fault f
    | .refused r => .refused r

/-- Two states that agree on everything but the status cache and the power mode (R27, R30). -/
def SameButCaches (s t : State) : Prop :=
  t = { s with sr1 := t.sr1, sr2 := t.sr2, sr3 := t.sr3, powerMode := t.powerMode }

/-- Two outcomes of the same kind whose next states agree on everything but the caches. -/
def SameOutcome : Out → Out → Prop
  | .next s, .next t => SameButCaches s t
  | .fault f, .fault g => f = g
  | .refused r, .refused q => r = q
  | _, _ => False

/-! ### The bus and the lock -/

/-- Where the port stands: chip-select high, a frame just opened, or bytes sent in it. -/
inductive BusPhase where
  | high
  | opened
  | sent
  deriving DecidableEq, Repr

/-- One event on the bus (R63, R110 to R117): frames are not nested; a frame is one TX and then what it
receives; LOCK and UNLOCK stand outside frames; no transfer is empty. -/
def busEvent : BusPhase → Event → Option BusPhase
  | .high, .csLow => some .opened
  | .high, .csHigh => some .high
  | .high, .delay _ => some .high
  | .high, .lock => some .high
  | .high, .unlock => some .high
  | .opened, .tx bytes => if bytes = [] then none else some .sent
  | .sent, .rx bytes => if bytes = [] then none else some .sent
  | .sent, .delay _ => some .sent
  | .sent, .csHigh => some .high
  | _, _ => none

/-- The phase after some events; none where the discipline is broken. -/
def busAfter (p : BusPhase) : List Event → Option BusPhase
  | [] => some p
  | ev :: rest =>
    match busEvent p ev with
    | some q => busAfter q rest
    | none => none

/-- A trace keeps the discipline of the bus and leaves chip-select high (R63). -/
def WellFramed (trace : List Event) : Prop := busAfter .high trace = some .high

/-- Whether the lock is held after some events; none where it is taken twice or released while not held. -/
def lockAfter (held : Bool) : List Event → Option Bool
  | [] => some held
  | .lock :: rest => if held then none else lockAfter true rest
  | .unlock :: rest => if held then lockAfter false rest else none
  | _ :: rest => lockAfter held rest

/-- A trace takes and releases the lock in turn and leaves it released (R115, R116, R289). -/
def LockBalanced (trace : List Event) : Prop := lockAfter false trace = some false

/-- The opcodes of the mutating commands (R15): page program, the erases, the status-register writes. -/
def mutatingOpcodes : List Byte := [0x02, 0x20, 0x52, 0xD8, 0xC7, 0x01, 0x31, 0x11]

/-- A frame carries a mutating command. -/
def isMutating : List Byte → Bool
  | [] => false
  | op :: _ => mutatingOpcodes.contains op

/-- Every mutating frame is the next frame after a write-enable frame (R65, R304). -/
def writeEnabled (previousIsWren : Bool) : List (List Byte) → Bool
  | [] => true
  | f :: rest => (!isMutating f || previousIsWren) && writeEnabled (decide (f = [0x06])) rest

/-- A frame's first byte is one of the eighteen opcodes (R84, R85). -/
def knownOpcode : List Byte → Bool
  | [] => false
  | op :: _ => frameOpcodes.contains op

/-! ### Which instruction does what -/

/-- The host operations (space host_command); the others are lone command frames. -/
def isHostOp : Instr → Bool
  | .wren | .wrdi | .rdp | .dpd | .rdid | .ruid | .fread _ _ | .pp _ _ | .se _ | .be32 _ | .be64 _ | .ce
  | .rdsr1 | .rdsr2 | .rdsr3 | .wrsr1 _ | .wrsr2 _ | .wrsr3 _ | .poll _ => false
  | .init | .initNoid _ | .enterPd | .exitPd | .read _ _ _ _ | .write _ _ _ _ _ | .erase4k _ _ _
  | .erase32k _ _ _ | .erase64k _ _ _ | .eraseChip | .isEmpty _ _ _ _ | .rdSr1 | .rdSr2 | .rdSr3
  | .wrSr1 _ | .wrSr2 _ | .wrSr3 _ | .writeEnable | .writeDisable | .waitBusy _ | .rdJedec | .rdUid
  | .pageToSector _ | .pageToBlock _ | .sectorToBlock _ | .sectorToPage _ | .blockToPage _
  | .blockToSector _ | .idManufacturer _ | .idModel _ | .idBlockcount _ => true

/-- The gated operations (R272): every host operation but INIT, INIT_NOID and the three ID operations. -/
def isGated : Instr → Bool
  | .init | .initNoid _ | .idManufacturer _ | .idModel _ | .idBlockcount _ | .wren | .wrdi | .rdp | .dpd
  | .rdid | .ruid | .fread _ _ | .pp _ _ | .se _ | .be32 _ | .be64 _ | .ce | .rdsr1 | .rdsr2 | .rdsr3
  | .wrsr1 _ | .wrsr2 _ | .wrsr3 _ | .poll _ => false
  | .enterPd | .exitPd | .read _ _ _ _ | .write _ _ _ _ _ | .erase4k _ _ _ | .erase32k _ _ _
  | .erase64k _ _ _ | .eraseChip | .isEmpty _ _ _ _ | .rdSr1 | .rdSr2 | .rdSr3 | .wrSr1 _ | .wrSr2 _
  | .wrSr3 _ | .writeEnable | .writeDisable | .waitBusy _ | .rdJedec | .rdUid | .pageToSector _
  | .pageToBlock _ | .sectorToBlock _ | .sectorToPage _ | .blockToPage _ | .blockToSector _ => true

/-- The two operations that initialize the block (R180, R181). -/
def initializes : Instr → Bool
  | .init | .initNoid _ => true
  | .wren | .wrdi | .rdp | .dpd | .rdid | .ruid | .fread _ _ | .pp _ _ | .se _ | .be32 _ | .be64 _ | .ce
  | .rdsr1 | .rdsr2 | .rdsr3 | .wrsr1 _ | .wrsr2 _ | .wrsr3 _ | .poll _ | .enterPd | .exitPd
  | .read _ _ _ _ | .write _ _ _ _ _ | .erase4k _ _ _ | .erase32k _ _ _ | .erase64k _ _ _ | .eraseChip
  | .isEmpty _ _ _ _ | .rdSr1 | .rdSr2 | .rdSr3 | .wrSr1 _ | .wrSr2 _ | .wrSr3 _ | .writeEnable
  | .writeDisable | .waitBusy _ | .rdJedec | .rdUid | .pageToSector _ | .pageToBlock _ | .sectorToBlock _
  | .sectorToPage _ | .blockToPage _ | .blockToSector _ | .idManufacturer _ | .idModel _
  | .idBlockcount _ => false

/-- The operations whose status is that of a busy-wait (R275), and the polling frame. -/
def endsInWait : Instr → Bool
  | .write _ _ _ _ _ | .erase4k _ _ _ | .erase32k _ _ _ | .erase64k _ _ _ | .eraseChip | .wrSr1 _
  | .wrSr2 _ | .wrSr3 _ | .waitBusy _ | .poll _ => true
  | .wren | .wrdi | .rdp | .dpd | .rdid | .ruid | .fread _ _ | .pp _ _ | .se _ | .be32 _ | .be64 _ | .ce
  | .rdsr1 | .rdsr2 | .rdsr3 | .wrsr1 _ | .wrsr2 _ | .wrsr3 _ | .init | .initNoid _ | .enterPd | .exitPd
  | .read _ _ _ _ | .isEmpty _ _ _ _ | .rdSr1 | .rdSr2 | .rdSr3 | .writeEnable | .writeDisable | .rdJedec
  | .rdUid | .pageToSector _ | .pageToBlock _ | .sectorToBlock _ | .sectorToPage _ | .blockToPage _
  | .blockToSector _ | .idManufacturer _ | .idModel _ | .idBlockcount _ => false

/-- The checks of R220 let an array operation of `len` bytes through. -/
def accepted (s : State) (unit : AddrUnit) (index offset len : Word) : Prop :=
  len ≠ 0 ∧ (s.config.rangeCheck = false ∨
    index.toNat * s.unitSize unit + offset.toNat + len.toNat ≤ s.capacity)

/-- The range check of R61 lets an addressed erase through. -/
def eraseAccepted (s : State) (unit : AddrUnit) (index offset : Word) : Prop :=
  s.config.rangeCheck = false ∨ index.toNat * s.unitSize unit + offset.toNat < s.capacity

/-- On an initialized block the instruction passes its checks and calls LOCK (R220, R289). INIT, INIT_NOID, the
translator and the ID operations never do. That the lone frames never do is log entry 8, and that WAIT_BUSY with
a budget the counter cannot hold does not is log entry 10. -/
def takesLock (s : State) : Instr → Prop
  | .enterPd | .exitPd | .eraseChip | .rdSr1 | .rdSr2 | .rdSr3 | .wrSr1 _ | .wrSr2 _ | .wrSr3 _
  | .writeEnable | .writeDisable | .rdJedec | .rdUid => True
  | .waitBusy budget => budget.toNat * 1000 < 2 ^ 32
  | .read unit index offset len | .isEmpty unit index offset len => accepted s unit index offset len
  | .write unit index offset len data => accepted s unit index offset len ∧ data.length = len.toNat
  | .erase4k unit index offset | .erase32k unit index offset | .erase64k unit index offset =>
    eraseAccepted s unit index offset
  | .wren | .wrdi | .rdp | .dpd | .rdid | .ruid | .fread _ _ | .pp _ _ | .se _ | .be32 _ | .be64 _ | .ce
  | .rdsr1 | .rdsr2 | .rdsr3 | .wrsr1 _ | .wrsr2 _ | .wrsr3 _ | .poll _ | .init | .initNoid _
  | .pageToSector _ | .pageToBlock _ | .sectorToBlock _ | .sectorToPage _ | .blockToPage _
  | .blockToSector _ | .idManufacturer _ | .idModel _ | .idBlockcount _ => False

/-- Table R283: which error kinds an operation can return besides Ok. The busy-wait's budget that fits no
counter adds InvalidParameters to WAIT_BUSY (log entry 10). -/
def kindsOf : Instr → List ErrorKind
  | .init => [.invalidParameters, .noMemoryFound, .unknownDevice]
  | .initNoid _ => [.invalidParameters, .noMemoryFound]
  | .enterPd => [.fail, .notInitialized]
  | .exitPd => [.notInitialized]
  | .read _ _ _ _ => [.invalidParameters, .outOfRange, .notInitialized]
  | .write _ _ _ _ _ => [.fail, .invalidParameters, .outOfRange, .notInitialized]
  | .erase4k _ _ _ | .erase32k _ _ _ | .erase64k _ _ _ => [.fail, .outOfRange, .notInitialized]
  | .eraseChip => [.fail, .notInitialized]
  | .isEmpty _ _ _ _ => [.invalidParameters, .outOfRange, .notInitialized, .regionIsNotEmpty]
  | .rdSr1 | .rdSr2 | .rdSr3 => [.notInitialized]
  | .wrSr1 _ | .wrSr2 _ | .wrSr3 _ => [.fail, .notInitialized]
  | .writeEnable | .writeDisable => [.notInitialized]
  | .waitBusy _ => [.fail, .invalidParameters, .notInitialized]
  | .rdJedec | .rdUid => [.notInitialized]
  | .pageToSector _ | .pageToBlock _ | .sectorToBlock _ | .sectorToPage _ | .blockToPage _
  | .blockToSector _ => [.notInitialized]
  | .idManufacturer _ | .idModel _ | .idBlockcount _ => []
  | .poll _ => [.fail, .invalidParameters]
  | .wren | .wrdi | .rdp | .dpd | .rdid | .ruid | .fread _ _ | .pp _ _ | .se _ | .be32 _ | .be64 _ | .ce
  | .rdsr1 | .rdsr2 | .rdsr3 | .wrsr1 _ | .wrsr2 _ | .wrsr3 _ => []

/-- The instructions that can change the chip's array: WRITE, the erases, and the lone frames of the page
program and the erases. -/
def changesArray : Instr → Bool
  | .write _ _ _ _ _ | .erase4k _ _ _ | .erase32k _ _ _ | .erase64k _ _ _ | .eraseChip | .pp _ _ | .se _
  | .be32 _ | .be64 _ | .ce => true
  | .wren | .wrdi | .rdp | .dpd | .rdid | .ruid | .fread _ _ | .rdsr1 | .rdsr2 | .rdsr3 | .wrsr1 _
  | .wrsr2 _ | .wrsr3 _ | .poll _ | .init | .initNoid _ | .enterPd | .exitPd | .read _ _ _ _
  | .isEmpty _ _ _ _ | .rdSr1 | .rdSr2 | .rdSr3 | .wrSr1 _ | .wrSr2 _ | .wrSr3 _ | .writeEnable
  | .writeDisable | .waitBusy _ | .rdJedec | .rdUid | .pageToSector _ | .pageToBlock _ | .sectorToBlock _
  | .sectorToPage _ | .blockToPage _ | .blockToSector _ | .idManufacturer _ | .idModel _
  | .idBlockcount _ => false

/-! ### Invariants -/

/-- The geometry registers hold the constants and the derived counts of R23, and the block count is one the
registers can hold. -/
def GeometryHolds (s : State) : Prop :=
  s.pageSize.toNat = 256 ∧ s.sectorSize.toNat = 4096 ∧ s.blockSize.toNat = 65536 ∧
    1 ≤ s.blockCount.toNat ∧ s.blockCount.toNat ≤ 65535 ∧
    s.sectorCount.toNat = s.blockCount.toNat * (s.blockSize.toNat / s.sectorSize.toNat) ∧
    s.pageCount.toNat = s.sectorCount.toNat * s.sectorSize.toNat / s.pageSize.toNat ∧
    s.totalSize.toNat = s.sectorCount.toNat * s.sectorSize.toNat

/-- The power mode and the nesting counter agree (R30, R197). -/
def PowerHolds (s : State) : Prop := s.powerMode = .deepPowerDown ↔ 0 < s.pdCount.toNat

/-- The block's invariant: geometry where initialized (R23), power-down (R30), SEQ idle (R31). -/
def BlockInv (s : State) : Prop :=
  (s.initialized = true → GeometryHolds s) ∧ PowerHolds s ∧ s.seq = .idle

/-- The invariant of a fitted reference device between frames (R72): its array is in canonical form and no
frame is open. -/
def DeviceInv (s : State) : Prop :=
  ∀ d, s.env.device = some d → Memory.wf d.mem = true ∧ d.txSeen = [] ∧ d.rxSeen = 0

end Sys2Proof.Safety
end

