-- ==== Sys2Proof/Certificates/Slice0/Obligations.lean ====
section
/-! DEFINITION. The statements for the provers. Each docstring names the rules of the spec it formalises and
the log entries it rests on. `bracketed`, `frameEvents`, `pollEvents`, `WaitsAs` and the other terms are
those of Sys2Proof/Safety.lean. -/

section Statements

open Sys2Proof Sys2Proof.Machine Sys2Proof.Safety

/-! ### Encoding -/

/-- Decoding what an instruction is encoded as gives the instruction back, whatever its operands (R81, R82,
R84, R86, R87). -/
def Obligations.DecodeEncode : Prop :=
  ∀ i : Instr, i.wellFormed = true → decode (encode i) = .ok i

/-- A frame has one meaning and an instruction one frame: what decodes as an instruction is that
instruction's encoding, byte for byte and shape for shape (R81, R84, R85). -/
def Obligations.EncodeDecodeFrame : Prop :=
  ∀ (tx : List Byte) (rx : RxShape) (i : Instr), decode (.frame tx rx) = .ok i → encode i = .frame tx rx

/-- The fields of the command word stand where Table R86 puts them, and bits 15:10 are ignored. -/
def Obligations.CommandFields : Prop :=
  ∀ (op : Byte) (unit : AddrUnit) (index offset len arg : Word) (unused : BitVec 6) (data : List Byte),
    let w : CmdWord := arg ++ len ++ offset ++ index ++ unused ++ unit.code ++ op
    CmdWord.opSel w = op ∧ CmdWord.unit w = unit ∧ CmdWord.index w = index ∧ CmdWord.offset w = offset ∧
      CmdWord.len w = len ∧ CmdWord.arg w = arg ∧
      decode (.command w data) = decode (.command (commandWord op unit index offset len arg) data)

/-- A few words written out from the spec's encodings decode to what they stand for (R81, R84, R86, R87). -/
def Obligations.SampleWords : Prop :=
  decode (.frame [0x06] .none) = .ok .wren ∧
    decode (.frame [0x0B, 0x00, 0x10, 0x00, 0x00] (.bytes 4)) = .ok (.fread 0x001000 4) ∧
    decode (.frame [0x02, 0x00, 0x00, 0xFF, 0xAA] .none) = .ok (.pp 0x0000FF [0xAA]) ∧
    decode (.frame [0xD8, 0x03, 0x00, 0x00] .none) = .ok (.be64 0x030000) ∧
    decode (.frame [0x9F] (.bytes 3)) = .ok .rdid ∧
    decode (.frame [0x31, 0x02] .none) = .ok (.wrsr2 0x02) ∧
    decode (.frame [0x05] (.bytes 1)) = .ok .rdsr1 ∧
    decode (.frame [0x05] (.polls 500)) = .ok (.poll 500) ∧
    decode (.command 0x00000000000000000000000000000000_0000 []) = .ok .init ∧
    decode (.command 0x00000000_00000004_00000008_00000003_0104 []) = .ok (.read .page 3 8 4) ∧
    decode (.command 0x00000000_00000000_00000000_00000002_0206 []) = .ok (.erase4k .sector 2 0) ∧
    decode (.command 0x00000002_00000000_00000000_00000000_000E []) = .ok (.wrSr1 0x02) ∧
    decode (.command 0x00000000_00000000_00000000_00000025_0020 []) = .ok (.pageToSector 37) ∧
    decode (.command 0x001740EF_00000000_00000000_00000000_002A []) = .ok (.idBlockcount 0x1740EF)

/-- A reserved op_sel: the step ends with InvalidParameters, emits no event and changes no state, whatever
the gate (R90, R273). -/
def Obligations.ReservedOpSel : Prop :=
  ∀ (s : State) (w : CmdWord) (data : List Byte) (rest : List HostMove),
    s.seq = .idle → s.port = .issue (.command w data) :: rest →
    (0x16 ≤ (w.extractLsb' 0 8).toNat ∧ (w.extractLsb' 0 8).toNat ≤ 0x1F ∨
      (w.extractLsb' 0 8).toNat = 0x26 ∨ (w.extractLsb' 0 8).toNat = 0x27 ∨
      0x2B ≤ (w.extractLsb' 0 8).toNat) →
    step s = .next { s with port := rest, result := Result.ofStatus .invalidParameters }

/-- In every frame with an address the three bytes right after the opcode are A[23:16], A[15:8], A[7:0], and
of an effective address they are those of its value modulo 2^24 (R52). -/
def Obligations.AddressBytes : Prop :=
  (∀ (a : Addr) (n : Nat) (p : List Byte),
    (∀ i ∈ [Instr.se a, .be32 a, .be64 a, .fread a n, .pp a p],
      ∃ op rest rx, encode i = .frame
        (op :: a.extractLsb' 16 8 :: a.extractLsb' 8 8 :: a.extractLsb' 0 8 :: rest) rx)) ∧
  ∀ ea : Nat, (frameAddr ea).toNat = ea % 2 ^ 24 ∧
    addrBytes (frameAddr ea) =
      [BitVec.ofNat 8 (ea / 2 ^ 16), BitVec.ofNat 8 (ea / 2 ^ 8), BitVec.ofNat 8 ea]

/-- The ids are assembled from the bytes received: the JEDEC id with the first byte lowest, the unique id
with the first byte highest (R53, R54; decisions D5 and D6 of the spec). -/
def Obligations.IdAssembly : Prop :=
  (∀ r0 r1 r2 : Byte,
    (jedecOfBytes [r0, r1, r2]).toNat = r0.toNat + r1.toNat * 2 ^ 8 + r2.toNat * 2 ^ 16) ∧
  ∀ u0 u1 u2 u3 u4 u5 u6 u7 : Byte,
    (uidOfBytes [u0, u1, u2, u3, u4, u5, u6, u7]).toNat =
      u0.toNat * 2 ^ 56 + u1.toNat * 2 ^ 48 + u2.toNat * 2 ^ 40 + u3.toNat * 2 ^ 32 + u4.toNat * 2 ^ 24 +
        u5.toNat * 2 ^ 16 + u6.toNat * 2 ^ 8 + u7.toNat

/-! ### Reset and the step -/

/-- What reset leaves in the Device Instance and the sequencer (R301 with R37); the machine then waits: with
nothing presented a step changes nothing. The values of the configuration, the host port and the environment
are the model's (log entries 4 to 7) and not claimed here. -/
def Obligations.ResetState : Prop :=
  (let s := State.reset;
    s.initialized = false ∧ s.pageSize = 0 ∧ s.sectorSize = 0 ∧ s.blockSize = 0 ∧ s.blockCount = 0 ∧
      s.sectorCount = 0 ∧ s.pageCount = 0 ∧ s.totalSize = 0 ∧ s.jedecId = 0 ∧ s.uniqueId = 0 ∧
      s.manufacturer = .unknown ∧ s.model = .modelUnknown ∧ s.sr1 = 0x00 ∧ s.sr2 = 0x00 ∧ s.sr3 = 0x00 ∧
      s.pdCount = 0 ∧ s.powerMode = .idle ∧ s.seq = .idle) ∧
  (ManufacturerCode.unknown.code = 0 ∧ ModelCode.modelUnknown.code = 0 ∧ PowerMode.idle.code = 0) ∧
  step State.reset = .next State.reset

/-- A hardware reset in IDLE sets every register of the Device Instance to zero; it emits no event and leaves
the straps, the environment and the rest of the host port alone (R300). That the result record and the
trace stay is the model's choice (log entry 11). -/
def Obligations.HardReset : Prop :=
  ∀ (s : State) (rest : List HostMove), s.seq = .idle → s.port = .hardReset :: rest →
    step s = .next { State.reset with
      config := s.config, port := rest, result := s.result, trace := s.trace, env := s.env }

/-- A step runs the decoded instruction: in IDLE, the request first at the host port is taken off it, SEQ is
RUN, and the step is exec of what the request decodes to (R31; log entries 1 and 8). -/
def Obligations.StepRunsDecoded : Prop :=
  ∀ (s : State) (r : Request) (rest : List HostMove) (i : Instr),
    s.seq = .idle → s.port = .issue r :: rest → decode r = .ok i →
    step s = exec i { s with port := rest, seq := .run i }

/-- Where a step runs no instruction: with nothing presented in IDLE it changes nothing (R301); while SEQ is
RUN it is refused (U1, and U2 for a reset). Bytes that are no frame are refused by name: a first byte that is
none of the eighteen opcodes, and any frame that no well-formed instruction is encoded as, a known opcode with
another shape or operand bound among them; R85 only says that such a frame never appears, and the refusal is
the model's (log entry 16). -/
def Obligations.StepWithoutInstruction : Prop :=
  (∀ s : State, s.seq = .idle → s.port = [] → step s = .next s) ∧
  (∀ (s : State) (i : Instr) (rest : List HostMove), s.seq = .run i → s.port = .hardReset :: rest →
    step s = .refused .resetWhileRunning) ∧
  (∀ (s : State) (i : Instr) (r : Request) (rest : List HostMove), s.seq = .run i →
    s.port = .issue r :: rest → step s = .refused .operationWhileRunning) ∧
  (∀ (s : State) (tx : List Byte) (rx : RxShape) (rest : List HostMove), s.seq = .idle →
    s.port = .issue (.frame tx rx) :: rest → knownOpcode tx = false → step s = .refused .notAFrame) ∧
  ∀ (s : State) (tx : List Byte) (rx : RxShape) (rest : List HostMove), s.seq = .idle →
    s.port = .issue (.frame tx rx) :: rest →
    (∀ i : Instr, i.wellFormed = true → encode i ≠ .frame tx rx) → step s = .refused .notAFrame

/-! ### Invariants -/

/-- The block's invariant holds at reset (R23, R30, R31, R37). -/
def Obligations.BlockInvAtReset : Prop := BlockInv State.reset ∧ DeviceInv State.reset

/-- Every step keeps the block's invariant: the geometry registers satisfy the geometry invariant wherever
the block is initialized (R23), DeepPowerDown goes with a counter above 0 (R30, R197), and SEQ is IDLE
between steps (R31, R287). -/
def Obligations.BlockInvKept : Prop := ∀ s t : State, BlockInv s → step s = .next t → BlockInv t

/-- Every step keeps the discipline of the bus: no frame is nested, nothing is sent or received outside one,
LOCK and UNLOCK stand outside frames, and chip-select is high at the end (R63, R112, R113, R117). -/
def Obligations.BusDisciplineKept : Prop :=
  ∀ s t : State, WellFramed s.trace → step s = .next t → WellFramed t.trace

/-- Every step takes and releases the lock in turn and ends with it released, where the host supplies both
primitives or neither (R115, R116, R289). -/
def Obligations.LockBalanceKept : Prop :=
  ∀ s t : State, s.config.straps.hasLock = s.config.straps.hasUnlock → LockBalanced s.trace →
    step s = .next t → LockBalanced t.trace

/-- Every step keeps the canonical form of a fitted device's array and leaves no frame open at it (R60, R63,
R72; log entry 9). -/
def Obligations.DeviceInvKept : Prop := ∀ s t : State, DeviceInv s → step s = .next t → DeviceInv t

/-- S.initialized is monotonic: no host operation and no frame clears it, and only INIT and INIT_NOID set
it, with status Ok (R26, R288). -/
def Obligations.InitializedMonotone : Prop :=
  ∀ (i : Instr) (s t : State), exec i s = .next t →
    (s.initialized = true → t.initialized = true) ∧
      (s.initialized = false → t.initialized = true →
        initializes i = true ∧ t.result.status = .ok)

/-- Table R36: an instruction writes only the registers the table gives it, whatever its outcome: geometry and
identity INIT and INIT_NOID; the counter and the power mode these and ENTER_PD and EXIT_PD; a cache slot these,
the operations on that status register, and slot 1 also every operation that waits. A lone frame writes none,
the polling frame slot 1 (R22, R24, R27, R29, R30, R36). -/
def Obligations.AccessTable : Prop :=
  ∀ (i : Instr) (s t : State), exec i s = .next t →
    (initializes i = false →
      t.pageSize = s.pageSize ∧ t.sectorSize = s.sectorSize ∧ t.blockSize = s.blockSize ∧
        t.blockCount = s.blockCount ∧ t.sectorCount = s.sectorCount ∧ t.pageCount = s.pageCount ∧
        t.totalSize = s.totalSize ∧ t.jedecId = s.jedecId ∧ t.uniqueId = s.uniqueId ∧
        t.manufacturer = s.manufacturer ∧ t.model = s.model ∧ t.initialized = s.initialized) ∧
    (initializes i = false → i ≠ .enterPd → i ≠ .exitPd →
      t.pdCount = s.pdCount ∧ t.powerMode = s.powerMode) ∧
    (initializes i = false → endsInWait i = false → i ≠ .rdSr1 → t.sr1 = s.sr1) ∧
    (initializes i = false → i ≠ .rdSr2 → (∀ v, i ≠ .wrSr2 v) → t.sr2 = s.sr2) ∧
    (initializes i = false → i ≠ .rdSr3 → (∀ v, i ≠ .wrSr3 v) → t.sr3 = s.sr3)

/-- No step writes the straps and the OPEN parameters (R21, R34), and no step takes back an event (R62). -/
def Obligations.ConfigurationKept : Prop :=
  ∀ s t : State, step s = .next t → t.config = s.config ∧ s.trace <+: t.trace

/-! ### Completion, errors, the gate -/

/-- Every instruction ends in a next state with SEQ idle, whatever its operands, the state and the bytes received,
where LOCK returns. One is stuck exactly where the block is initialized, the instruction passes its checks and
takes the lock, and the host has a lock primitive that never returns; none is ever refused (R71, R115, R289;
U17, U18). Model's choices, not the spec's: the grant as a field of the environment (log entry 7); that WAIT_BUSY
and POLL with a budget the counter cannot hold end with InvalidParameters, without LOCK, where U4 has refusing
them as its first treatment, and so that nothing is refused (log entry 10); that a lone frame is an instruction
and never takes the lock (log entry 8); that one grant holds for every probe of an IS_EMPTY (log entry 14). -/
def Obligations.EveryOperationEnds : Prop :=
  (∀ (i : Instr) (s : State), s.lockReturns = true → ∃ t, exec i s = .next t ∧ t.seq = .idle) ∧
  (∀ (i : Instr) (s : State), exec i s = .fault .lockNeverGranted ↔
    s.initialized = true ∧ takesLock s i ∧ s.config.straps.hasLock = true ∧ s.env.lockGrants = false) ∧
  (∀ s : State, s.lockReturns = false ↔ s.config.straps.hasLock = true ∧ s.env.lockGrants = false) ∧
  ∀ (i : Instr) (s : State) (r : Refusal), exec i s ≠ .refused r

/-- NotInitialized, code 6: raised by the gate of every gated operation where S.initialized = 0, by nothing
else, and with no event and no state change (R280). -/
def Obligations.GateRejects : Prop :=
  ErrorKind.notInitialized.code = 6 ∧
  (∀ (i : Instr) (s : State), isGated i = true → s.initialized = false →
    exec i s = .next { s with result := Result.ofStatus .notInitialized, seq := .idle }) ∧
  ∀ (i : Instr) (s t : State), exec i s = .next t → t.result.status = .notInitialized →
    isGated i = true ∧ s.initialized = false

/-- The nine error kinds have the numbers of Table R92 (decision D3 of the spec). An operation answers Ok or one
of the kinds Table R283 gives it; none answers IsLocked (R282, R283). The kind InvalidParameters of WAIT_BUSY
and the row of the polling frame are the model's (log entry 10). -/
def Obligations.KindsReturned : Prop :=
  (ErrorKind.ok.code = 0 ∧ ErrorKind.fail.code = 1 ∧ ErrorKind.invalidParameters.code = 2 ∧
    ErrorKind.noMemoryFound.code = 3 ∧ ErrorKind.unknownDevice.code = 4 ∧ ErrorKind.outOfRange.code = 5 ∧
    ErrorKind.notInitialized.code = 6 ∧ ErrorKind.regionIsNotEmpty.code = 7 ∧ ErrorKind.isLocked.code = 8) ∧
  ∀ (i : Instr) (s t : State), exec i s = .next t →
    (t.result.status = .ok ∨ t.result.status ∈ kindsOf i) ∧ t.result.status ≠ .isLocked

/-- The operand checks of READ, WRITE, IS_EMPTY and the addressed erases come after the gate and before the
lock, in the order parameters, range; a rejected operation emits no event and changes no state. EA is index
times the unit size plus offset, on unbounded naturals; with the geometry in place the unit sizes are 1, 256,
4096 and 65536; CAP is the smaller of totalSize and 2^24 (R51, R61, R88, R89, R220, R273, R276, R279; decisions
D2, D17 and D35 of the spec). -/
def Obligations.OperandErrors : Prop :=
  ∀ (s : State) (unit : AddrUnit) (index offset len : Word) (data : List Byte), s.initialized = true →
    let ea := index.toNat * s.unitSize unit + offset.toNat
    let cap := min s.totalSize.toNat (2 ^ 24)
    let raised (k : ErrorKind) : Out := .next { s with result := Result.ofStatus k, seq := .idle }
    (len = 0 → exec (.read unit index offset len) s = raised .invalidParameters ∧
      exec (.isEmpty unit index offset len) s = raised .invalidParameters) ∧
    (len = 0 ∨ data.length ≠ len.toNat →
      exec (.write unit index offset len data) s = raised .invalidParameters) ∧
    (s.config.rangeCheck = true → len ≠ 0 → cap < ea + len.toNat →
      exec (.read unit index offset len) s = raised .outOfRange ∧
      exec (.isEmpty unit index offset len) s = raised .outOfRange ∧
      (data.length = len.toNat → exec (.write unit index offset len data) s = raised .outOfRange)) ∧
    (s.config.rangeCheck = true → cap ≤ ea →
      exec (.erase4k unit index offset) s = raised .outOfRange ∧
      exec (.erase32k unit index offset) s = raised .outOfRange ∧
      exec (.erase64k unit index offset) s = raised .outOfRange) ∧
    (GeometryHolds s → s.unitSize .byte = 1 ∧ s.unitSize .page = 256 ∧ s.unitSize .sector = 4096 ∧
      s.unitSize .block = 65536) ∧
    s.effAddr unit index offset = ea ∧ s.capacity = cap

/-! ### Rules over the whole command set -/

/-- The frames of an instruction: the first byte of each is one of the eighteen opcodes; and among those of one
host operation every page program, erase and status-register write is the very next frame after a frame [06]
of the same operation (R65, R84, R85, R304). -/
def Obligations.FrameDiscipline : Prop :=
  ∀ (i : Instr) (s t : State), exec i s = .next t →
    ∃ events, t.trace = s.trace ++ events ∧ (∀ f ∈ txFrames events, knownOpcode f = true) ∧
      (isHostOp i = true → writeEnabled false (txFrames events) = true)

/-- The status cache and the power mode decide nothing: two states that differ in them alone give outcomes
that differ in them alone, for every instruction (R27, R30, R67, R198). -/
def Obligations.CachesDecideNothing : Prop :=
  ∀ (i : Instr) (s t : State), SameButCaches s t → SameOutcome (exec i s) (exec i t)

/-- The oracle: a frame is answered with as many bytes as it receives; with no device fitted and enough
answers scripted, they are the scripted ones in order (R71; log entry 6). -/
def Obligations.OracleAnswers : Prop :=
  ∀ (e : Environment) (bytes : List Byte) (n : Nat),
    (e.frame bytes n).1.length = n ∧
      (e.device = none → n ≤ e.script.length →
        e.frame bytes n =
          (e.script.take n, { e with script := e.script.drop n, received := e.received + n }))

/-! ### The command frames -/

/-- The lone frames that receive nothing: each emits its bytes as one frame, returns Ok and leaves every register
of the block as it was (R117 to R121, R125 to R129, R133 to R135). That a lone frame is an instruction of its own, with
no gate, no lock and the result Ok, is the model's choice (log entry 8). -/
def Obligations.FramesSent : Prop :=
  ∀ (s : State) (a : Addr) (p : List Byte) (v : Byte),
    let sent (bytes : List Byte) : Out := .next { s with
      trace := s.trace ++ frameEvents bytes []
      env := (s.env.frame bytes 0).2
      result := Result.zero
      seq := .idle }
    let addr := [a.extractLsb' 16 8, a.extractLsb' 8 8, a.extractLsb' 0 8]
    exec .wren s = sent [0x06] ∧ exec .wrdi s = sent [0x04] ∧ exec .rdp s = sent [0xAB] ∧
      exec .dpd s = sent [0xB9] ∧ exec .ce s = sent [0xC7] ∧ exec (.se a) s = sent (0x20 :: addr) ∧
      exec (.be32 a) s = sent (0x52 :: addr) ∧ exec (.be64 a) s = sent (0xD8 :: addr) ∧
      exec (.pp a p) s = sent (0x02 :: addr ++ p) ∧ exec (.wrsr1 v) s = sent [0x01, v] ∧
      exec (.wrsr2 v) s = sent [0x31, v] ∧ exec (.wrsr3 v) s = sent [0x11, v]

/-- The lone frames that receive: each emits one frame, returns what it received and leaves every register of the
block as it was; RDSR1 to RDSR3 alone write no cache slot (R117, R122 to R124, R130 to R132). That a lone frame
is an instruction of its own, with no gate and no lock and what it receives in the result record, is the
model's choice (log entry 8). -/
def Obligations.FramesReceived : Prop :=
  ∀ (s : State) (a : Addr) (n : Nat),
    let got (bytes : List Byte) (n : Nat) (r : List Byte → Result) : Out := .next { s with
      trace := s.trace ++ frameEvents bytes (s.env.frame bytes n).1
      env := (s.env.frame bytes n).2
      result := r (s.env.frame bytes n).1
      seq := .idle }
    let status (r : List Byte) : Result := Result.ofValue ((r.getD 0 0).zeroExtend 64)
    exec .rdid s = got [0x9F] 3 (fun r => Result.ofValue ((jedecOfBytes r).zeroExtend 64)) ∧
      exec .ruid s = got [0x4B, 0x00, 0x00, 0x00, 0x00] 8 (fun r => Result.ofValue (uidOfBytes r)) ∧
      exec (.fread a n) s =
        got [0x0B, a.extractLsb' 16 8, a.extractLsb' 8 8, a.extractLsb' 0 8, 0x00] n Result.ofData ∧
      exec .rdsr1 s = got [0x05] 1 status ∧ exec .rdsr2 s = got [0x35] 1 status ∧
      exec .rdsr3 s = got [0x15] 1 status

/-- The polling frame on its own: one frame, its polls those of a busy-wait with the budget over the bytes the
environment answers, the last of them in S.sr1, and nothing else changed (R136, R205). That it is an instruction
of its own is the model's choice (log entry 8). -/
def Obligations.PollFrame : Prop :=
  ∀ (s : State) (budget : Word), budget.toNat * 1000 < 2 ^ 32 →
    ∃ dummy before last status remaining,
      let f := s.env.frame [0x05] (before.length + 2)
      dummy :: (before ++ [last]) = f.1 ∧
      WaitsAs budget.toNat (before ++ [last]) status remaining ∧
      exec (.poll budget) s = .next { s with
        sr1 := last
        trace := s.trace ++ pollEvents dummy (before ++ [last])
        env := f.2
        result := Result.ofWait status remaining
        seq := .idle }

/-! ### Initialization -/

/-- INIT and INIT_NOID to the end: the frames in order, every register written, S.initialized set, status Ok
(R153, R180, R181, last row of Table R182). -/
def Obligations.InitCompletes : Prop :=
  ∀ s : State, Straps.required s.config.straps = true → s.initialized = false →
    let f1 := s.env.deselect.frame [0xAB] 0
    let f2 := f1.2.frame [0x9F] 3
    let f3 := f2.2.frame [0x4B, 0x00, 0x00, 0x00, 0x00] 8
    let f4 := f3.2.frame [0x05] 1
    let f5 := f4.2.frame [0x35] 1
    let f6 := f5.2.frame [0x15] 1
    let id := jedecOfBytes f2.1
    let done (bc : Nat) : State := { s with
      pdCount := 0
      powerMode := .idle
      jedecId := id
      manufacturer := Config.interpretManufacturer s.config id
      model := Config.interpretModel s.config id
      uniqueId := uidOfBytes f3.1
      pageSize := 256
      sectorSize := 4096
      blockSize := 65536
      blockCount := BitVec.ofNat 32 bc
      sectorCount := BitVec.ofNat 32 (bc * 16)
      pageCount := BitVec.ofNat 32 (bc * 256)
      totalSize := BitVec.ofNat 32 (bc * 65536)
      sr1 := f4.1.getD 0 0
      sr2 := f5.1.getD 0 0
      sr3 := f6.1.getD 0 0
      initialized := true
      result := Result.zero
      seq := .idle
      env := f6.2
      trace := s.trace ++ ([.csHigh, .delay 100] ++ frameEvents [0xAB] [] ++ frameEvents [0x9F] f2.1 ++
        frameEvents [0x4B, 0x00, 0x00, 0x00, 0x00] f3.1 ++ frameEvents [0x05] f4.1 ++
        frameEvents [0x35] f5.1 ++ frameEvents [0x15] f6.1) }
    id ≠ 0x000000 → id ≠ 0xFFFFFF →
    (Config.interpretModel s.config id ≠ .modelUnknown →
      1 ≤ Config.blockCountFromId s.config id → Config.blockCountFromId s.config id ≤ 65535 →
      exec .init s = .next (done (Config.blockCountFromId s.config id))) ∧
    ∀ bc : Word, 1 ≤ bc.toNat → bc.toNat ≤ 65535 → exec (.initNoid bc) s = .next (done bc.toNat)

/-- Where INIT and INIT_NOID end before any event (Table R182, first two rows): a required strap missing and a
block count that is 0 or above 65535 give InvalidParameters; an initialized block answers Ok and keeps
everything (R180 steps 1 and 2, R181 steps 1 to 3). -/
def Obligations.InitWithoutEvent : Prop :=
  ∀ (s : State) (bc : Word),
    let ends (k : ErrorKind) : Out := .next { s with result := Result.ofStatus k, seq := .idle }
    (Straps.required s.config.straps = false →
      exec .init s = ends .invalidParameters ∧ exec (.initNoid bc) s = ends .invalidParameters) ∧
    (bc.toNat = 0 ∨ 65535 < bc.toNat → exec (.initNoid bc) s = ends .invalidParameters) ∧
    (Straps.required s.config.straps = true → s.initialized = true →
      exec .init s = ends .ok ∧
        (1 ≤ bc.toNat → bc.toNat ≤ 65535 → exec (.initNoid bc) s = ends .ok))

/-- NoMemoryFound, code 3: raised by INIT and INIT_NOID only, when the id read is 0x000000 or 0xFFFFFF, and by
no other id; the bad id is left in S.jedecId (R277). -/
def Obligations.NoMemoryFound : Prop :=
  ErrorKind.noMemoryFound.code = 3 ∧
  (∀ (i : Instr) (s t : State), exec i s = .next t → t.result.status = .noMemoryFound →
    initializes i = true ∧ (t.jedecId = 0x000000 ∨ t.jedecId = 0xFFFFFF)) ∧
  ∀ (s : State) (bc : Word), Straps.required s.config.straps = true → s.initialized = false →
    1 ≤ bc.toNat → bc.toNat ≤ 65535 →
    ∀ i ∈ [Instr.init, .initNoid bc], ∃ t,
      let id := jedecOfBytes ((s.env.deselect.frame [0xAB] 0).2.frame [0x9F] 3).1
      exec i s = .next t ∧ t.jedecId = id ∧
        (t.result.status = .noMemoryFound ↔ id = 0x000000 ∨ id = 0xFFFFFF)

/-- UnknownDevice: INIT with an id whose model is not recognized ends after the id read, and with a block count
that is 0 or above 65535 after the unique id read; what each leaves is its row of Table R182 (R180 steps 8
and 10, R182, R278). -/
def Obligations.InitUnknownDevice : Prop :=
  ∀ s : State, Straps.required s.config.straps = true → s.initialized = false →
    let f1 := s.env.deselect.frame [0xAB] 0
    let f2 := f1.2.frame [0x9F] 3
    let f3 := f2.2.frame [0x4B, 0x00, 0x00, 0x00, 0x00] 8
    let id := jedecOfBytes f2.1
    let bc := Config.blockCountFromId s.config id
    let decoded : State := { s with
      pdCount := 0
      powerMode := .idle
      jedecId := id
      manufacturer := Config.interpretManufacturer s.config id
      model := Config.interpretModel s.config id
      result := Result.ofStatus .unknownDevice
      seq := .idle
      env := f2.2
      trace := s.trace ++ ([.csHigh, .delay 100] ++ frameEvents [0xAB] [] ++ frameEvents [0x9F] f2.1) }
    id ≠ 0x000000 → id ≠ 0xFFFFFF →
    (Config.interpretModel s.config id = .modelUnknown → exec .init s = .next decoded) ∧
    (Config.interpretModel s.config id ≠ .modelUnknown → bc = 0 ∨ 65535 < bc →
      exec .init s = .next { decoded with
        uniqueId := uidOfBytes f3.1
        env := f3.2
        trace := decoded.trace ++ frameEvents [0x4B, 0x00, 0x00, 0x00, 0x00] f3.1 })

/-! ### Power-down -/

/-- ENTER_PD and EXIT_PD at every value of the nesting counter, and the numbers of the two power modes (R93, R195,
R196; decisions D3, D14 and D15 of the spec). -/
def Obligations.PowerDown : Prop :=
  (PowerMode.idle.code = 0 ∧ PowerMode.deepPowerDown.code = 1) ∧
  ∀ s : State, s.initialized = true → s.lockReturns = true →
    let counted (n : Word) (r : Result) : State := { s with
      pdCount := n
      trace := s.trace ++ bracketed s []
      result := r
      seq := .idle }
    let framed (n : Word) (m : PowerMode) (op : Byte) : State := { s with
      pdCount := n
      powerMode := m
      trace := s.trace ++ bracketed s (frameEvents [op] [])
      env := (s.env.frame [op] 0).2
      result := Result.zero
      seq := .idle }
    (s.pdCount.toNat = 0 → exec .enterPd s = .next (framed 1 .deepPowerDown 0xB9)) ∧
    (0 < s.pdCount.toNat → s.pdCount.toNat < 2 ^ 32 - 1 →
      exec .enterPd s = .next (counted (s.pdCount + 1) Result.zero)) ∧
    (s.pdCount.toNat = 2 ^ 32 - 1 →
      exec .enterPd s = .next (counted s.pdCount (Result.ofStatus .fail))) ∧
    (s.pdCount.toNat = 0 → exec .exitPd s = .next (counted 0 Result.zero)) ∧
    (s.pdCount.toNat = 1 → exec .exitPd s = .next (framed 0 .idle 0xAB)) ∧
    (1 < s.pdCount.toNat → exec .exitPd s = .next (counted (s.pdCount - 1) Result.zero))

/-- Nesting: `n` ENTER_PD and then `n` EXIT_PD from an awake block emit exactly one enter frame and one
release frame, and leave the block awake; after any ENTER_PD of them it is in DeepPowerDown (R197). -/
def Obligations.PowerDownNesting : Prop :=
  ∀ (s : State) (n : Nat), s.initialized = true → s.lockReturns = true → s.pdCount = 0 → 1 ≤ n →
    n < 2 ^ 32 →
    ∃ asleep awake events,
      execAll (List.replicate n .enterPd) s = .next asleep ∧
      asleep.powerMode = .deepPowerDown ∧ asleep.pdCount.toNat = n ∧
      execAll (List.replicate n .exitPd) asleep = .next awake ∧
      awake.powerMode = .idle ∧ awake.pdCount = 0 ∧
      awake.trace = s.trace ++ events ∧ txFrames events = [[0xB9], [0xAB]]

/-! ### Read, write, erase, scan -/

/-- READ: the whole length in one fast-read frame at EA modulo 2^24, in its lock bracket; nothing of the block
but the result changes (R89, R124, R222). -/
def Obligations.Read : Prop :=
  ∀ (s : State) (unit : AddrUnit) (index offset len : Word), s.initialized = true → s.lockReturns = true →
    let ea := index.toNat * s.unitSize unit + offset.toNat
    let bytes : List Byte := 0x0B :: addrBytes (BitVec.ofNat 24 ea) ++ [0x00]
    let f := s.env.frame bytes len.toNat
    len ≠ 0 → (s.config.rangeCheck = false ∨ ea + len.toNat ≤ s.capacity) →
    exec (.read unit index offset len) s = .next { s with
      trace := s.trace ++ bracketed s (frameEvents bytes f.1)
      env := f.2
      result := Result.ofData f.1
      seq := .idle }

/-- WRITE: the chunks of R223, each a write-enable frame, a program frame and a wait; after the last a final
wait, whose status and remaining milliseconds are the operation's; or a chunk's wait that fails ends it with
Fail. S.sr1 is the last byte polled, and nothing else of the block changes (R223; decision D20 of the
spec). -/
def Obligations.Write : Prop :=
  ∀ (s : State) (unit : AddrUnit) (index offset len : Word) (data : List Byte), s.initialized = true →
    s.lockReturns = true → GeometryHolds s →
    let ea := index.toNat * s.unitSize unit + offset.toNat
    len ≠ 0 → data.length = len.toNat → (s.config.rangeCheck = false ∨ ea + len.toNat ≤ s.capacity) →
    ∃ runs left last body status remaining env env',
      exec (.write unit index offset len data) s = .next { s with
        sr1 := last
        trace := s.trace ++ bracketed s (runs.flatMap chunkEvents ++ body)
        env := env'
        result := Result.ofWait status remaining
        seq := .idle } ∧
      ChunksFrom 256 s.env ea data runs left env ∧
      ((left = [] ∧ (∀ c ∈ runs, ∃ r, WaitsAs 500 c.polls .ok r) ∧
          ∃ dummy before, body = pollEvents dummy (before ++ [last]) ∧
            (dummy :: (before ++ [last]), env') = env.frame [0x05] (before.length + 2) ∧
            WaitsAs 500 (before ++ [last]) status remaining) ∨
        (status = .fail ∧ remaining = 0 ∧ body = [] ∧ env' = env ∧
          ∃ init c before, runs = init ++ [c] ∧ c.polls = before ++ [last] ∧
            (∀ c ∈ init, ∃ r, WaitsAs 500 c.polls .ok r) ∧ WaitsAs 500 c.polls .fail 0))

/-- The chunk law, of the frames of a WRITE that passes its checks: its page-program frames are those of chunks
that carry the data from its first byte on, in order and without gap from EA; every chunk has a byte, crosses no
page boundary, and but for the first starts on one. With the status Ok they carry all the data, are as many as
the pages the range touches, and the frames are, chunk by chunk, write-enable, page program and poll, and a last
poll: 3k + 1 for k chunks (R56, R223, R224). -/
def Obligations.ChunkLaw : Prop :=
  ∀ (s : State) (unit : AddrUnit) (index offset len : Word) (data : List Byte), s.initialized = true →
    s.lockReturns = true → GeometryHolds s →
    let ea := index.toNat * s.unitSize unit + offset.toNat
    let program (c : Nat × List Byte) : List Byte := 0x02 :: addrBytes (BitVec.ofNat 24 c.1) ++ c.2
    len ≠ 0 → data.length = len.toNat → (s.config.rangeCheck = false ∨ ea + len.toNat ≤ s.capacity) →
    ∃ (t : State) (events : List Event) (chunks : List (Nat × List Byte)),
      exec (.write unit index offset len data) s = .next t ∧ t.trace = s.trace ++ events ∧
      (txFrames events).filter (fun f => f.head? == some 0x02) = chunks.map program ∧
      chunks.flatMap Prod.snd <+: data ∧
      (∀ c ∈ chunks, 1 ≤ c.2.length ∧ c.1 % 256 + c.2.length ≤ 256) ∧
      (∀ c ∈ chunks.tail, c.1 % 256 = 0) ∧
      (∀ k (h : k < chunks.length), (chunks[k]'h).1 = ea + ((chunks.take k).flatMap Prod.snd).length) ∧
      (t.result.status = .ok →
        chunks.flatMap Prod.snd = data ∧ chunks.length = (ea % 256 + data.length + 255) / 256 ∧
        txFrames events = chunks.flatMap (fun c => [[0x06], program c, [0x05]]) ++ [[0x05]] ∧
        (txFrames events).length = 3 * chunks.length + 1)

/-- The erases: a write-enable frame, the erase frame with the address exactly as computed modulo 2^24, and the
wait of that erase's budget, in the lock bracket (R211, R240 to R244; decision D18 of the spec). -/
def Obligations.Erases : Prop :=
  ∀ (s : State) (unit : AddrUnit) (index offset : Word), s.initialized = true → s.lockReturns = true →
    let ea := index.toNat * s.unitSize unit + offset.toNat
    let frames (bytes : List Byte) : List Event := frameEvents [0x06] [] ++ frameEvents bytes []
    let sent (bytes : List Byte) : Environment := ((s.env.frame [0x06] 0).2.frame bytes 0).2
    let erases (bytes : List Byte) (ms : Nat) (out : Out) : Prop :=
      EndsInWait s s (frames bytes) (sent bytes) ms out
    let addr := addrBytes (BitVec.ofNat 24 ea)
    ((s.config.rangeCheck = false ∨ ea < s.capacity) →
      erases (0x20 :: addr) 10000 (exec (.erase4k unit index offset) s) ∧
      erases (0x52 :: addr) 16000 (exec (.erase32k unit index offset) s) ∧
      erases (0xD8 :: addr) 25000 (exec (.erase64k unit index offset) s)) ∧
    erases [0xC7] 160000 (exec .eraseChip s)

/-- IS_EMPTY: the region is read in probes of at most PROBE_SIZE bytes, each in its own
lock bracket, up to the first that holds a byte that is not 0xFF; with such a probe the status is
RegionIsNotEmpty, else Ok; nothing of the block but the result changes (R265, R266). -/
def Obligations.IsEmpty : Prop :=
  ∀ (s : State) (unit : AddrUnit) (index offset len : Word), s.initialized = true → s.lockReturns = true →
    let ea := index.toNat * s.unitSize unit + offset.toNat
    len ≠ 0 → (s.config.rangeCheck = false ∨ ea + len.toNat ≤ s.capacity) →
    ∃ probes left status env,
      exec (.isEmpty unit index offset len) s = .next { s with
        trace := s.trace ++ probes.flatMap (probeEvents s)
        env := env
        result := Result.ofStatus status
        seq := .idle } ∧
      ProbesFrom s.config.probeSize s.env ea len.toNat probes left env ∧
      ((status = .ok ∧ left = 0 ∧ ∀ p ∈ probes, ∀ b ∈ p.received, b = 0xFF) ∨
        (status = .regionIsNotEmpty ∧ ∃ init p, probes = init ++ [p] ∧
          (∀ q ∈ init, ∀ b ∈ q.received, b = 0xFF) ∧ ∃ b ∈ p.received, b ≠ 0xFF))

/-- RegionIsNotEmpty, code 7: raised by IS_EMPTY only, and then by the first probe that holds a byte that is not
0xFF: every byte of the probes before it is 0xFF, and no probe comes after it. An IS_EMPTY that passes its checks
answers it exactly where a byte it received is not 0xFF (R281). -/
def Obligations.RegionIsNotEmpty : Prop :=
  ErrorKind.regionIsNotEmpty.code = 7 ∧
  (∀ (i : Instr) (s t : State), exec i s = .next t → t.result.status = .regionIsNotEmpty →
    (∃ unit index offset len, i = .isEmpty unit index offset len) ∧
      ∃ init p, t.trace = s.trace ++ (init ++ [p]).flatMap (probeEvents s) ∧
        (∀ q ∈ init, ∀ b ∈ q.received, b = 0xFF) ∧ ∃ b ∈ p.received, b ≠ 0xFF) ∧
  ∀ (s : State) (unit : AddrUnit) (index offset len : Word), s.initialized = true → s.lockReturns = true →
    let ea := index.toNat * s.unitSize unit + offset.toNat
    len ≠ 0 → (s.config.rangeCheck = false ∨ ea + len.toNat ≤ s.capacity) →
    ∃ (t : State) (events : List Event), exec (.isEmpty unit index offset len) s = .next t ∧
      t.trace = s.trace ++ events ∧
      (t.result.status = .regionIsNotEmpty ↔ ∃ r ∈ rxData events, ∃ b ∈ r, b ≠ 0xFF)

/-- The probe law, of the frames of an IS_EMPTY that passes its checks: probe k is a fast-read frame at EA plus k
times PROBE_SIZE and receives PROBE_SIZE bytes, or what is left of the region. With the status Ok the probes are
as many as PROBE_SIZE goes into the length, rounded up; with RegionIsNotEmpty, where the first byte that is not
0xFF is at offset j of the region, they are j / PROBE_SIZE + 1 (R265, R266). -/
def Obligations.ProbeLaw : Prop :=
  ∀ (s : State) (unit : AddrUnit) (index offset len : Word), s.initialized = true → s.lockReturns = true →
    let ea := index.toNat * s.unitSize unit + offset.toNat
    let size := s.config.probeSize
    len ≠ 0 → (s.config.rangeCheck = false ∨ ea + len.toNat ≤ s.capacity) →
    ∃ (t : State) (events : List Event) (n : Nat), exec (.isEmpty unit index offset len) s = .next t ∧
      t.trace = s.trace ++ events ∧
      txFrames events =
        (List.range n).map (fun k => 0x0B :: addrBytes (BitVec.ofNat 24 (ea + k * size)) ++ [0x00]) ∧
      (rxData events).map List.length = (List.range n).map (fun k => min size (len.toNat - k * size)) ∧
      (t.result.status = .ok → n = (len.toNat + size - 1) / size) ∧
      (t.result.status = .regionIsNotEmpty → ∃ before b after,
        (rxData events).flatten = before ++ b :: after ∧ (∀ x ∈ before, x = 0xFF) ∧ b ≠ 0xFF ∧
        n = before.length / size + 1)

/-! ### Status registers, write-enable, the busy-wait, ids -/

/-- RD_SRn: one read frame in the lock bracket; the byte is the result and goes to slot n alone (R27, R250 to
R252). -/
def Obligations.ReadStatus : Prop :=
  ∀ s : State, s.initialized = true → s.lockReturns = true →
    let f (op : Byte) := s.env.frame [op] 1
    let done (op : Byte) : State := { s with
      trace := s.trace ++ bracketed s (frameEvents [op] (f op).1)
      env := (f op).2
      result := Result.ofValue (((f op).1.getD 0 0).zeroExtend 64)
      seq := .idle }
    exec .rdSr1 s = .next { done 0x05 with sr1 := (f 0x05).1.getD 0 0 } ∧
      exec .rdSr2 s = .next { done 0x35 with sr2 := (f 0x35).1.getD 0 0 } ∧
      exec .rdSr3 s = .next { done 0x15 with sr3 := (f 0x15).1.getD 0 0 }

/-- WR_SRn: write-enable, the one-byte write frame, and a wait of 500 ms in the lock bracket; slot n takes the
value sent, slot 1 then the last byte polled (R211, R253 to R256; decision D13 of the spec). -/
def Obligations.WriteStatus : Prop :=
  ∀ (s : State) (v : Byte), s.initialized = true → s.lockReturns = true →
    let writes (op : Byte) (base : State) (out : Out) : Prop :=
      EndsInWait s base (frameEvents [0x06] [] ++ frameEvents [op, v] [])
        ((s.env.frame [0x06] 0).2.frame [op, v] 0).2 500 out
    writes 0x01 s (exec (.wrSr1 v) s) ∧ writes 0x31 { s with sr2 := v } (exec (.wrSr2 v) s) ∧
      writes 0x11 { s with sr3 := v } (exec (.wrSr3 v) s)

/-- WRITE_ENABLE and WRITE_DISABLE: one frame in the lock bracket, and nothing else (R208 to R210). -/
def Obligations.WriteEnableDisable : Prop :=
  ∀ s : State, s.initialized = true → s.lockReturns = true →
    let done (op : Byte) : State := { s with
      trace := s.trace ++ bracketed s (frameEvents [op] [])
      env := (s.env.frame [op] 0).2
      result := Result.zero
      seq := .idle }
    exec .writeEnable s = .next (done 0x06) ∧ exec .writeDisable s = .next (done 0x04)

/-- WAIT_BUSY: a wait in the lock bracket (R205 to R207). A budget that does not fit the microsecond counter
ends with InvalidParameters and changes nothing, which U4 allows and the model chose (log entry 10). -/
def Obligations.WaitBusy : Prop :=
  ∀ (s : State) (budget : Word), s.initialized = true →
    (s.lockReturns = true → budget.toNat * 1000 < 2 ^ 32 →
      EndsInWait s s [] s.env budget.toNat (exec (.waitBusy budget) s)) ∧
    (2 ^ 32 ≤ budget.toNat * 1000 → exec (.waitBusy budget) s =
      .next { s with result := Result.ofStatus .invalidParameters, seq := .idle })

/-- The iteration law on a scripted oracle: with `busy` busy bytes scripted and then `last`, where either `last`
is not busy or the budget ends on it, WAIT_BUSY polls exactly these, whatever comes after them, and answers
as R206 says. -/
def Obligations.WaitIterations : Prop :=
  ∀ (s : State) (budget : Word) (dummy last : Byte) (busy rest : List Byte), s.initialized = true →
    s.lockReturns = true → budget.toNat * 1000 < 2 ^ 32 → s.env.device = none →
    s.env.script = dummy :: busy ++ last :: rest → (∀ b ∈ busy, b.getLsbD 0 = true) →
    busy.length < maxPolls budget.toNat → (last.getLsbD 0 = false ∨ busy.length + 1 = maxPolls budget.toNat) →
    exec (.waitBusy budget) s = .next { s with
      sr1 := last
      trace := s.trace ++ bracketed s (pollEvents dummy (busy ++ [last]))
      env := { s.env with script := rest, received := s.env.received + busy.length + 2 }
      result :=
        if last.getLsbD 0 = false then
          Result.ofWait .ok ((budget.toNat * 1000 - 100 * (busy.length + 1)) / 1000)
        else Result.ofWait .fail 0
      seq := .idle }

/-- BUSY is bit 0 of a status byte and WEL bit 1. After an operation that ends in a busy-wait and answers Ok the
cached busy bit is 0, and after one whose wait ran out it is 1 (R28, R67, R91, R205, R285). -/
def Obligations.CachedBusyBit : Prop :=
  (∀ v : Byte, busyFlag v = decide (v.toNat % 2 = 1) ∧ welFlag v = decide (v.toNat / 2 % 2 = 1)) ∧
  ∀ (i : Instr) (s t : State), endsInWait i = true → exec i s = .next t →
    (t.result.status = .ok → t.sr1.getLsbD 0 = false) ∧
      (t.result.status = .fail → t.sr1.getLsbD 0 = true)

/-- RD_JEDEC and RD_UID: the id frame in the lock bracket; the id read is the result, and no identity register
changes (R24, R225, R226). -/
def Obligations.ReadIds : Prop :=
  ∀ s : State, s.initialized = true → s.lockReturns = true →
    let done (bytes : List Byte) (n : Nat) (r : List Byte → Result) : State := { s with
      trace := s.trace ++ bracketed s (frameEvents bytes (s.env.frame bytes n).1)
      env := (s.env.frame bytes n).2
      result := r (s.env.frame bytes n).1
      seq := .idle }
    exec .rdJedec s =
        .next (done [0x9F] 3 fun r => Result.ofValue ((jedecOfBytes r).zeroExtend 64)) ∧
      exec .rdUid s =
        .next (done [0x4B, 0x00, 0x00, 0x00, 0x00] 8 fun r => Result.ofValue (uidOfBytes r))

/-! ### The address translator -/

/-- PAGE_TO_SECTOR, PAGE_TO_BLOCK and SECTOR_TO_BLOCK: their op_sel and operand, the gate, and the value, by
the formula and with the fixed sizes; no other state changes (R165, R166, R167). -/
def Obligations.DownwardConversions : Prop :=
  ∀ (s : State) (x : Word),
    let value (n : Nat) : Out := .next { s with result := Result.ofValue (BitVec.ofNat 64 n), seq := .idle }
    let rejected : Out := .next { s with result := Result.ofStatus .notInitialized, seq := .idle }
    (∀ (w : CmdWord) (data : List Byte), CmdWord.index w = x →
      (CmdWord.opSel w = 0x20 → decode (.command w data) = .ok (.pageToSector x)) ∧
      (CmdWord.opSel w = 0x21 → decode (.command w data) = .ok (.pageToBlock x)) ∧
      (CmdWord.opSel w = 0x22 → decode (.command w data) = .ok (.sectorToBlock x))) ∧
    (s.initialized = false →
      exec (.pageToSector x) s = rejected ∧ exec (.pageToBlock x) s = rejected ∧
        exec (.sectorToBlock x) s = rejected) ∧
    (s.initialized = true → GeometryHolds s →
      exec (.pageToSector x) s = value (x.toNat * s.pageSize.toNat / s.sectorSize.toNat % 2 ^ 32) ∧
        exec (.pageToSector x) s = value (x.toNat / 16) ∧
      exec (.pageToBlock x) s = value (x.toNat * s.pageSize.toNat / s.blockSize.toNat % 2 ^ 32) ∧
        exec (.pageToBlock x) s = value (x.toNat / 256) ∧
      exec (.sectorToBlock x) s = value (x.toNat * s.sectorSize.toNat / s.blockSize.toNat % 2 ^ 32) ∧
        exec (.sectorToBlock x) s = value (x.toNat / 16))

/-- SECTOR_TO_PAGE, BLOCK_TO_PAGE and BLOCK_TO_SECTOR: the product modulo 2^32, however large the index; no
other state changes (R168 to R171; decision D26 of the spec). -/
def Obligations.UpwardConversions : Prop :=
  ∀ (s : State) (x : Word), s.initialized = true → GeometryHolds s →
    let value (n : Nat) : Out := .next { s with result := Result.ofValue (BitVec.ofNat 64 n), seq := .idle }
    exec (.sectorToPage x) s = value (x.toNat * 16 % 2 ^ 32) ∧
      exec (.blockToPage x) s = value (x.toNat * 256 % 2 ^ 32) ∧
      exec (.blockToSector x) s = value (x.toNat * 16 % 2 ^ 32)

/-- The round trips of R172: down and up again gives the start of the larger unit, which is the index itself
where it is aligned; up and down again gives the index where the way up does not exceed 32 bits. -/
def Obligations.RoundTrips : Prop :=
  ∀ (s : State) (down up : Word → Instr) (k : Nat), s.initialized = true → GeometryHolds s →
    ((down = .pageToSector ∧ up = .sectorToPage ∧ k = 16) ∨
      (down = .pageToBlock ∧ up = .blockToPage ∧ k = 256) ∨
      (down = .sectorToBlock ∧ up = .blockToSector ∧ k = 16)) →
    (∀ x : Word, ∃ t u, exec (down x) s = .next t ∧
      exec (up (t.result.value.setWidth 32)) s = .next u ∧
      u.result.value.toNat = x.toNat - x.toNat % k) ∧
    ∀ x : Word, x.toNat * k < 2 ^ 32 → ∃ t u, exec (up x) s = .next t ∧
      exec (down (t.result.value.setWidth 32)) s = .next u ∧ u.result.value = x.zeroExtend 64

/-! ### Identification -/

/-- The decoders of an id: an id whose manufacturer byte has no table entry is Unknown and ModelUnknown and
has no block count; with an entry the manufacturer is its place, and the model is the place of the code that
MODEL_SEL names, or ModelUnknown (R25, R93, R150, R151). That the first entry for a byte counts, and that the
number of a model counts on through the tables of the manufacturers before, are the model's choice (log entry
21). -/
def Obligations.IdDecoding : Prop :=
  ∀ (c : Config) (id : JedecId),
    ((∀ e ∈ c.mfrTable, e.mfrByte ≠ id.extractLsb' 0 8) →
      Config.interpretManufacturer c id = .unknown ∧ Config.interpretModel c id = .modelUnknown ∧
        Config.blockCountFromId c id = 0) ∧
    ∀ (before after : List MfrEntry) (e : MfrEntry), c.mfrTable = before ++ e :: after →
      e.mfrByte = id.extractLsb' 0 8 → (∀ o ∈ before, o.mfrByte ≠ id.extractLsb' 0 8) →
      let code : BitVec 16 := match e.modelSel with
        | .sel23_16 => (id.extractLsb' 16 8).zeroExtend 16
        | .sel23_8 => id.extractLsb' 8 16
      Config.interpretManufacturer c id = .member before.length ∧
        (code ∉ e.modelTable → Config.interpretModel c id = .modelUnknown) ∧
        ∀ codes rest, e.modelTable = codes ++ code :: rest → code ∉ codes →
          Config.interpretModel c id =
            .member ((before.map fun o => o.modelTable.length).sum + codes.length)

/-- The block count of an id: 2^(d - offset + 1) for the density byte d, or 0 where the manufacturer has no
density scheme, d is below the offset or the count would not fit 32 bits (R152; decision D24 of the
spec). -/
def Obligations.BlockCount : Prop :=
  ∀ (c : Config) (id : JedecId) (before after : List MfrEntry) (e : MfrEntry),
    c.mfrTable = before ++ e :: after → e.mfrByte = id.extractLsb' 0 8 →
    (∀ o ∈ before, o.mfrByte ≠ id.extractLsb' 0 8) →
    let off := e.densityOffset.toNat
    (e.densitySel = .noDensity → Config.blockCountFromId c id = 0) ∧
      ∀ d : Byte,
        ((e.densitySel = .bits7_0 ∧ d = id.extractLsb' 0 8) ∨
          (e.densitySel = .bits15_8 ∧ d = id.extractLsb' 8 8) ∨
          (e.densitySel = .bits23_16 ∧ d = id.extractLsb' 16 8)) →
        (d.toNat < off → Config.blockCountFromId c id = 0) ∧
        (off ≤ d.toNat → d.toNat - off + 1 ≤ 31 →
          Config.blockCountFromId c id = 2 ^ (d.toNat - off + 1)) ∧
        (off ≤ d.toNat → 31 < d.toNat - off + 1 → Config.blockCountFromId c id = 0)

/-- ID_MANUFACTURER, ID_MODEL and ID_BLOCKCOUNT: the value in the result record, whether or not the block is
initialized, and no other change (R93, R154, R155, R156). -/
def Obligations.IdOperations : Prop :=
  ∀ (s : State) (id : JedecId),
    let value (n : Nat) : Out := .next { s with result := Result.ofValue (BitVec.ofNat 64 n), seq := .idle }
    (Config.interpretManufacturer s.config id = .unknown → exec (.idManufacturer id) s = value 0) ∧
      (∀ n, Config.interpretManufacturer s.config id = .member n →
        exec (.idManufacturer id) s = value (n + 1)) ∧
      (Config.interpretModel s.config id = .modelUnknown → exec (.idModel id) s = value 0) ∧
      (∀ n, Config.interpretModel s.config id = .member n → exec (.idModel id) s = value (n + 1)) ∧
      exec (.idBlockcount id) s = value (Config.blockCountFromId s.config id) ∧
      Config.blockCountFromId s.config id < 2 ^ 32

/-! ### The chip's array -/

/-- With the reference device fitted, an instruction other than WRITE, the erases and their frames leaves the
chip's whole array as it was (R58, R70, R72). -/
def Obligations.ArrayKept : Prop :=
  ∀ (i : Instr) (s t : State) (d : RefDevice), changesArray i = false → s.env.device = some d →
    DeviceInv s → exec i s = .next t →
    ∃ d', t.env.device = some d' ∧ d'.mem = d.mem ∧ d'.capDev = d.capDev

/-- With the reference device fitted and awake, READ returns the array's bytes from EA on (R55, R72, R222). -/
def Obligations.ReadReturnsArray : Prop :=
  ∀ (s : State) (unit : AddrUnit) (index offset len : Word) (d : RefDevice), s.initialized = true →
    s.lockReturns = true → s.env.device = some d → d.dpd = false →
    let ea := index.toNat * s.unitSize unit + offset.toNat
    len ≠ 0 → (s.config.rangeCheck = false ∨ ea + len.toNat ≤ s.capacity) →
    ∃ t, exec (.read unit index offset len) s = .next t ∧
      t.result = Result.ofData ((List.range len.toNat).map fun k =>
        Memory.read d.mem ((ea % 2 ^ 24 + k) % d.capDev))

/-- The frames that change the array: with the reference device fitted, awake and its latch set, a page
program ANDs its payload into the bytes from its address on, an erase sets the aligned region that holds its
address to 0xFF, and a chip erase the whole array; every other byte reads as before (R55, R57, R60, R70,
R72). That an erase takes its address as it is, at or above CAPDEV too, is the model's choice (log entry 15). -/
def Obligations.ArrayFrames : Prop :=
  ∀ (s : State) (d : RefDevice) (a : Addr) (p : List Byte), s.env.device = some d →
    Memory.wf d.mem = true → d.dpd = false → d.wel = true →
    (a.toNat + p.length ≤ d.capDev → ∃ t d', exec (.pp a p) s = .next t ∧ t.env.device = some d' ∧
      ∀ x, Memory.read d'.mem x =
        if a.toNat ≤ x ∧ x < a.toNat + p.length then
          Memory.read d.mem x &&& p.getD (x - a.toNat) 0xFF
        else Memory.read d.mem x) ∧
    (∀ i size, (i, size) ∈ [(Instr.se a, 4096), (.be32 a, 32768), (.be64 a, 65536)] →
      ∃ t d', exec i s = .next t ∧ t.env.device = some d' ∧
        ∀ x, Memory.read d'.mem x = if x / size = a.toNat / size then 0xFF else Memory.read d.mem x) ∧
    ∃ t d', exec .ce s = .next t ∧ t.env.device = some d' ∧ ∀ x, Memory.read d'.mem x = 0xFF

/-- WRITE stores nowhere else: with the reference device fitted, every byte of the array outside the addresses
EA to EA + len - 1, as a frame can carry them and the device has them, reads as before (R55, R223, R224, R72).
That the device programs modulo CAPDEV is the model's choice (log entry 15). -/
def Obligations.WriteArrayFrame : Prop :=
  ∀ (s t : State) (unit : AddrUnit) (index offset len : Word) (data : List Byte) (d d' : RefDevice),
    GeometryHolds s → s.env.device = some d → Memory.wf d.mem = true →
    exec (.write unit index offset len data) s = .next t → t.env.device = some d' →
    let ea := index.toNat * s.unitSize unit + offset.toNat
    ∀ x, (∀ j < data.length, (ea + j) % 2 ^ 24 % d.capDev ≠ x) →
      Memory.read d'.mem x = Memory.read d.mem x

end Statements
end

