-- ==== Sys2Proof/Laws/State.lean ====
section
/-! SUPPORT. One lemma per field per update of the state, so that no later proof unfolds a record update. -/

namespace Sys2Proof.Machine

variable (s : State)

/-! ### State.emit -/

@[simp] theorem State.emit_config (ev : Event) : (s.emit ev).config = s.config := rfl
@[simp] theorem State.emit_pageSize (ev : Event) : (s.emit ev).pageSize = s.pageSize := rfl
@[simp] theorem State.emit_sectorSize (ev : Event) : (s.emit ev).sectorSize = s.sectorSize := rfl
@[simp] theorem State.emit_blockSize (ev : Event) : (s.emit ev).blockSize = s.blockSize := rfl
@[simp] theorem State.emit_blockCount (ev : Event) : (s.emit ev).blockCount = s.blockCount := rfl
@[simp] theorem State.emit_sectorCount (ev : Event) : (s.emit ev).sectorCount = s.sectorCount := rfl
@[simp] theorem State.emit_pageCount (ev : Event) : (s.emit ev).pageCount = s.pageCount := rfl
@[simp] theorem State.emit_totalSize (ev : Event) : (s.emit ev).totalSize = s.totalSize := rfl
@[simp] theorem State.emit_jedecId (ev : Event) : (s.emit ev).jedecId = s.jedecId := rfl
@[simp] theorem State.emit_uniqueId (ev : Event) : (s.emit ev).uniqueId = s.uniqueId := rfl
@[simp] theorem State.emit_manufacturer (ev : Event) : (s.emit ev).manufacturer = s.manufacturer := rfl
@[simp] theorem State.emit_model (ev : Event) : (s.emit ev).model = s.model := rfl
@[simp] theorem State.emit_initialized (ev : Event) : (s.emit ev).initialized = s.initialized := rfl
@[simp] theorem State.emit_sr1 (ev : Event) : (s.emit ev).sr1 = s.sr1 := rfl
@[simp] theorem State.emit_sr2 (ev : Event) : (s.emit ev).sr2 = s.sr2 := rfl
@[simp] theorem State.emit_sr3 (ev : Event) : (s.emit ev).sr3 = s.sr3 := rfl
@[simp] theorem State.emit_pdCount (ev : Event) : (s.emit ev).pdCount = s.pdCount := rfl
@[simp] theorem State.emit_powerMode (ev : Event) : (s.emit ev).powerMode = s.powerMode := rfl
@[simp] theorem State.emit_seq (ev : Event) : (s.emit ev).seq = s.seq := rfl
@[simp] theorem State.emit_port (ev : Event) : (s.emit ev).port = s.port := rfl
@[simp] theorem State.emit_result (ev : Event) : (s.emit ev).result = s.result := rfl
@[simp] theorem State.emit_trace (ev : Event) : (s.emit ev).trace = s.trace ++ [ev] := rfl
@[simp] theorem State.emit_env (ev : Event) : (s.emit ev).env = s.env := rfl

/-! ### State.csLow -/

@[simp] theorem State.csLow_config : (s.csLow).config = s.config := rfl
@[simp] theorem State.csLow_pageSize : (s.csLow).pageSize = s.pageSize := rfl
@[simp] theorem State.csLow_sectorSize : (s.csLow).sectorSize = s.sectorSize := rfl
@[simp] theorem State.csLow_blockSize : (s.csLow).blockSize = s.blockSize := rfl
@[simp] theorem State.csLow_blockCount : (s.csLow).blockCount = s.blockCount := rfl
@[simp] theorem State.csLow_sectorCount : (s.csLow).sectorCount = s.sectorCount := rfl
@[simp] theorem State.csLow_pageCount : (s.csLow).pageCount = s.pageCount := rfl
@[simp] theorem State.csLow_totalSize : (s.csLow).totalSize = s.totalSize := rfl
@[simp] theorem State.csLow_jedecId : (s.csLow).jedecId = s.jedecId := rfl
@[simp] theorem State.csLow_uniqueId : (s.csLow).uniqueId = s.uniqueId := rfl
@[simp] theorem State.csLow_manufacturer : (s.csLow).manufacturer = s.manufacturer := rfl
@[simp] theorem State.csLow_model : (s.csLow).model = s.model := rfl
@[simp] theorem State.csLow_initialized : (s.csLow).initialized = s.initialized := rfl
@[simp] theorem State.csLow_sr1 : (s.csLow).sr1 = s.sr1 := rfl
@[simp] theorem State.csLow_sr2 : (s.csLow).sr2 = s.sr2 := rfl
@[simp] theorem State.csLow_sr3 : (s.csLow).sr3 = s.sr3 := rfl
@[simp] theorem State.csLow_pdCount : (s.csLow).pdCount = s.pdCount := rfl
@[simp] theorem State.csLow_powerMode : (s.csLow).powerMode = s.powerMode := rfl
@[simp] theorem State.csLow_seq : (s.csLow).seq = s.seq := rfl
@[simp] theorem State.csLow_port : (s.csLow).port = s.port := rfl
@[simp] theorem State.csLow_result : (s.csLow).result = s.result := rfl
@[simp] theorem State.csLow_trace : (s.csLow).trace = s.trace ++ [.csLow] := rfl
@[simp] theorem State.csLow_env : (s.csLow).env = s.env.select := rfl

/-! ### State.csHigh -/

@[simp] theorem State.csHigh_config : (s.csHigh).config = s.config := rfl
@[simp] theorem State.csHigh_pageSize : (s.csHigh).pageSize = s.pageSize := rfl
@[simp] theorem State.csHigh_sectorSize : (s.csHigh).sectorSize = s.sectorSize := rfl
@[simp] theorem State.csHigh_blockSize : (s.csHigh).blockSize = s.blockSize := rfl
@[simp] theorem State.csHigh_blockCount : (s.csHigh).blockCount = s.blockCount := rfl
@[simp] theorem State.csHigh_sectorCount : (s.csHigh).sectorCount = s.sectorCount := rfl
@[simp] theorem State.csHigh_pageCount : (s.csHigh).pageCount = s.pageCount := rfl
@[simp] theorem State.csHigh_totalSize : (s.csHigh).totalSize = s.totalSize := rfl
@[simp] theorem State.csHigh_jedecId : (s.csHigh).jedecId = s.jedecId := rfl
@[simp] theorem State.csHigh_uniqueId : (s.csHigh).uniqueId = s.uniqueId := rfl
@[simp] theorem State.csHigh_manufacturer : (s.csHigh).manufacturer = s.manufacturer := rfl
@[simp] theorem State.csHigh_model : (s.csHigh).model = s.model := rfl
@[simp] theorem State.csHigh_initialized : (s.csHigh).initialized = s.initialized := rfl
@[simp] theorem State.csHigh_sr1 : (s.csHigh).sr1 = s.sr1 := rfl
@[simp] theorem State.csHigh_sr2 : (s.csHigh).sr2 = s.sr2 := rfl
@[simp] theorem State.csHigh_sr3 : (s.csHigh).sr3 = s.sr3 := rfl
@[simp] theorem State.csHigh_pdCount : (s.csHigh).pdCount = s.pdCount := rfl
@[simp] theorem State.csHigh_powerMode : (s.csHigh).powerMode = s.powerMode := rfl
@[simp] theorem State.csHigh_seq : (s.csHigh).seq = s.seq := rfl
@[simp] theorem State.csHigh_port : (s.csHigh).port = s.port := rfl
@[simp] theorem State.csHigh_result : (s.csHigh).result = s.result := rfl
@[simp] theorem State.csHigh_trace : (s.csHigh).trace = s.trace ++ [.csHigh] := rfl
@[simp] theorem State.csHigh_env : (s.csHigh).env = s.env.deselect := rfl

/-! ### State.transmit -/

@[simp] theorem State.transmit_config (bytes : List Byte) : (s.transmit bytes).config = s.config := rfl
@[simp] theorem State.transmit_pageSize (bytes : List Byte) : (s.transmit bytes).pageSize = s.pageSize := rfl
@[simp] theorem State.transmit_sectorSize (bytes : List Byte) : (s.transmit bytes).sectorSize = s.sectorSize := rfl
@[simp] theorem State.transmit_blockSize (bytes : List Byte) : (s.transmit bytes).blockSize = s.blockSize := rfl
@[simp] theorem State.transmit_blockCount (bytes : List Byte) : (s.transmit bytes).blockCount = s.blockCount := rfl
@[simp] theorem State.transmit_sectorCount (bytes : List Byte) : (s.transmit bytes).sectorCount = s.sectorCount := rfl
@[simp] theorem State.transmit_pageCount (bytes : List Byte) : (s.transmit bytes).pageCount = s.pageCount := rfl
@[simp] theorem State.transmit_totalSize (bytes : List Byte) : (s.transmit bytes).totalSize = s.totalSize := rfl
@[simp] theorem State.transmit_jedecId (bytes : List Byte) : (s.transmit bytes).jedecId = s.jedecId := rfl
@[simp] theorem State.transmit_uniqueId (bytes : List Byte) : (s.transmit bytes).uniqueId = s.uniqueId := rfl
@[simp] theorem State.transmit_manufacturer (bytes : List Byte) : (s.transmit bytes).manufacturer = s.manufacturer := rfl
@[simp] theorem State.transmit_model (bytes : List Byte) : (s.transmit bytes).model = s.model := rfl
@[simp] theorem State.transmit_initialized (bytes : List Byte) : (s.transmit bytes).initialized = s.initialized := rfl
@[simp] theorem State.transmit_sr1 (bytes : List Byte) : (s.transmit bytes).sr1 = s.sr1 := rfl
@[simp] theorem State.transmit_sr2 (bytes : List Byte) : (s.transmit bytes).sr2 = s.sr2 := rfl
@[simp] theorem State.transmit_sr3 (bytes : List Byte) : (s.transmit bytes).sr3 = s.sr3 := rfl
@[simp] theorem State.transmit_pdCount (bytes : List Byte) : (s.transmit bytes).pdCount = s.pdCount := rfl
@[simp] theorem State.transmit_powerMode (bytes : List Byte) : (s.transmit bytes).powerMode = s.powerMode := rfl
@[simp] theorem State.transmit_seq (bytes : List Byte) : (s.transmit bytes).seq = s.seq := rfl
@[simp] theorem State.transmit_port (bytes : List Byte) : (s.transmit bytes).port = s.port := rfl
@[simp] theorem State.transmit_result (bytes : List Byte) : (s.transmit bytes).result = s.result := rfl
@[simp] theorem State.transmit_trace (bytes : List Byte) : (s.transmit bytes).trace = s.trace ++ [.tx bytes] := rfl
@[simp] theorem State.transmit_env (bytes : List Byte) : (s.transmit bytes).env = s.env.send bytes := rfl

/-! ### State.delay -/

@[simp] theorem State.delay_config (us : Nat) : (s.delay us).config = s.config := rfl
@[simp] theorem State.delay_pageSize (us : Nat) : (s.delay us).pageSize = s.pageSize := rfl
@[simp] theorem State.delay_sectorSize (us : Nat) : (s.delay us).sectorSize = s.sectorSize := rfl
@[simp] theorem State.delay_blockSize (us : Nat) : (s.delay us).blockSize = s.blockSize := rfl
@[simp] theorem State.delay_blockCount (us : Nat) : (s.delay us).blockCount = s.blockCount := rfl
@[simp] theorem State.delay_sectorCount (us : Nat) : (s.delay us).sectorCount = s.sectorCount := rfl
@[simp] theorem State.delay_pageCount (us : Nat) : (s.delay us).pageCount = s.pageCount := rfl
@[simp] theorem State.delay_totalSize (us : Nat) : (s.delay us).totalSize = s.totalSize := rfl
@[simp] theorem State.delay_jedecId (us : Nat) : (s.delay us).jedecId = s.jedecId := rfl
@[simp] theorem State.delay_uniqueId (us : Nat) : (s.delay us).uniqueId = s.uniqueId := rfl
@[simp] theorem State.delay_manufacturer (us : Nat) : (s.delay us).manufacturer = s.manufacturer := rfl
@[simp] theorem State.delay_model (us : Nat) : (s.delay us).model = s.model := rfl
@[simp] theorem State.delay_initialized (us : Nat) : (s.delay us).initialized = s.initialized := rfl
@[simp] theorem State.delay_sr1 (us : Nat) : (s.delay us).sr1 = s.sr1 := rfl
@[simp] theorem State.delay_sr2 (us : Nat) : (s.delay us).sr2 = s.sr2 := rfl
@[simp] theorem State.delay_sr3 (us : Nat) : (s.delay us).sr3 = s.sr3 := rfl
@[simp] theorem State.delay_pdCount (us : Nat) : (s.delay us).pdCount = s.pdCount := rfl
@[simp] theorem State.delay_powerMode (us : Nat) : (s.delay us).powerMode = s.powerMode := rfl
@[simp] theorem State.delay_seq (us : Nat) : (s.delay us).seq = s.seq := rfl
@[simp] theorem State.delay_port (us : Nat) : (s.delay us).port = s.port := rfl
@[simp] theorem State.delay_result (us : Nat) : (s.delay us).result = s.result := rfl
@[simp] theorem State.delay_trace (us : Nat) : (s.delay us).trace = s.trace ++ [.delay us] := rfl
@[simp] theorem State.delay_env (us : Nat) : (s.delay us).env = s.env := rfl

/-! ### State.finish -/

@[simp] theorem State.finish_config (r : Result) : (s.finish r).config = s.config := rfl
@[simp] theorem State.finish_pageSize (r : Result) : (s.finish r).pageSize = s.pageSize := rfl
@[simp] theorem State.finish_sectorSize (r : Result) : (s.finish r).sectorSize = s.sectorSize := rfl
@[simp] theorem State.finish_blockSize (r : Result) : (s.finish r).blockSize = s.blockSize := rfl
@[simp] theorem State.finish_blockCount (r : Result) : (s.finish r).blockCount = s.blockCount := rfl
@[simp] theorem State.finish_sectorCount (r : Result) : (s.finish r).sectorCount = s.sectorCount := rfl
@[simp] theorem State.finish_pageCount (r : Result) : (s.finish r).pageCount = s.pageCount := rfl
@[simp] theorem State.finish_totalSize (r : Result) : (s.finish r).totalSize = s.totalSize := rfl
@[simp] theorem State.finish_jedecId (r : Result) : (s.finish r).jedecId = s.jedecId := rfl
@[simp] theorem State.finish_uniqueId (r : Result) : (s.finish r).uniqueId = s.uniqueId := rfl
@[simp] theorem State.finish_manufacturer (r : Result) : (s.finish r).manufacturer = s.manufacturer := rfl
@[simp] theorem State.finish_model (r : Result) : (s.finish r).model = s.model := rfl
@[simp] theorem State.finish_initialized (r : Result) : (s.finish r).initialized = s.initialized := rfl
@[simp] theorem State.finish_sr1 (r : Result) : (s.finish r).sr1 = s.sr1 := rfl
@[simp] theorem State.finish_sr2 (r : Result) : (s.finish r).sr2 = s.sr2 := rfl
@[simp] theorem State.finish_sr3 (r : Result) : (s.finish r).sr3 = s.sr3 := rfl
@[simp] theorem State.finish_pdCount (r : Result) : (s.finish r).pdCount = s.pdCount := rfl
@[simp] theorem State.finish_powerMode (r : Result) : (s.finish r).powerMode = s.powerMode := rfl
@[simp] theorem State.finish_seq (r : Result) : (s.finish r).seq = .idle := rfl
@[simp] theorem State.finish_port (r : Result) : (s.finish r).port = s.port := rfl
@[simp] theorem State.finish_result (r : Result) : (s.finish r).result = r := rfl
@[simp] theorem State.finish_trace (r : Result) : (s.finish r).trace = s.trace := rfl
@[simp] theorem State.finish_env (r : Result) : (s.finish r).env = s.env := rfl

/-! ### State.takeLock -/

@[simp] theorem State.takeLock_config : (s.takeLock).config = s.config := by
  unfold State.takeLock; split <;> rfl
@[simp] theorem State.takeLock_pageSize : (s.takeLock).pageSize = s.pageSize := by
  unfold State.takeLock; split <;> rfl
@[simp] theorem State.takeLock_sectorSize : (s.takeLock).sectorSize = s.sectorSize := by
  unfold State.takeLock; split <;> rfl
@[simp] theorem State.takeLock_blockSize : (s.takeLock).blockSize = s.blockSize := by
  unfold State.takeLock; split <;> rfl
@[simp] theorem State.takeLock_blockCount : (s.takeLock).blockCount = s.blockCount := by
  unfold State.takeLock; split <;> rfl
@[simp] theorem State.takeLock_sectorCount : (s.takeLock).sectorCount = s.sectorCount := by
  unfold State.takeLock; split <;> rfl
@[simp] theorem State.takeLock_pageCount : (s.takeLock).pageCount = s.pageCount := by
  unfold State.takeLock; split <;> rfl
@[simp] theorem State.takeLock_totalSize : (s.takeLock).totalSize = s.totalSize := by
  unfold State.takeLock; split <;> rfl
@[simp] theorem State.takeLock_jedecId : (s.takeLock).jedecId = s.jedecId := by
  unfold State.takeLock; split <;> rfl
@[simp] theorem State.takeLock_uniqueId : (s.takeLock).uniqueId = s.uniqueId := by
  unfold State.takeLock; split <;> rfl
@[simp] theorem State.takeLock_manufacturer : (s.takeLock).manufacturer = s.manufacturer := by
  unfold State.takeLock; split <;> rfl
@[simp] theorem State.takeLock_model : (s.takeLock).model = s.model := by
  unfold State.takeLock; split <;> rfl
@[simp] theorem State.takeLock_initialized : (s.takeLock).initialized = s.initialized := by
  unfold State.takeLock; split <;> rfl
@[simp] theorem State.takeLock_sr1 : (s.takeLock).sr1 = s.sr1 := by
  unfold State.takeLock; split <;> rfl
@[simp] theorem State.takeLock_sr2 : (s.takeLock).sr2 = s.sr2 := by
  unfold State.takeLock; split <;> rfl
@[simp] theorem State.takeLock_sr3 : (s.takeLock).sr3 = s.sr3 := by
  unfold State.takeLock; split <;> rfl
@[simp] theorem State.takeLock_pdCount : (s.takeLock).pdCount = s.pdCount := by
  unfold State.takeLock; split <;> rfl
@[simp] theorem State.takeLock_powerMode : (s.takeLock).powerMode = s.powerMode := by
  unfold State.takeLock; split <;> rfl
@[simp] theorem State.takeLock_seq : (s.takeLock).seq = s.seq := by
  unfold State.takeLock; split <;> rfl
@[simp] theorem State.takeLock_port : (s.takeLock).port = s.port := by
  unfold State.takeLock; split <;> rfl
@[simp] theorem State.takeLock_result : (s.takeLock).result = s.result := by
  unfold State.takeLock; split <;> rfl
@[simp] theorem State.takeLock_trace : (s.takeLock).trace = s.trace ++ Safety.lockEvents s := by
  simp only [State.takeLock, Safety.lockEvents]; split <;> simp [State.emit]
@[simp] theorem State.takeLock_env : (s.takeLock).env = s.env := by
  unfold State.takeLock; split <;> rfl

/-! ### State.dropLock -/

@[simp] theorem State.dropLock_config : (s.dropLock).config = s.config := by
  unfold State.dropLock; split <;> rfl
@[simp] theorem State.dropLock_pageSize : (s.dropLock).pageSize = s.pageSize := by
  unfold State.dropLock; split <;> rfl
@[simp] theorem State.dropLock_sectorSize : (s.dropLock).sectorSize = s.sectorSize := by
  unfold State.dropLock; split <;> rfl
@[simp] theorem State.dropLock_blockSize : (s.dropLock).blockSize = s.blockSize := by
  unfold State.dropLock; split <;> rfl
@[simp] theorem State.dropLock_blockCount : (s.dropLock).blockCount = s.blockCount := by
  unfold State.dropLock; split <;> rfl
@[simp] theorem State.dropLock_sectorCount : (s.dropLock).sectorCount = s.sectorCount := by
  unfold State.dropLock; split <;> rfl
@[simp] theorem State.dropLock_pageCount : (s.dropLock).pageCount = s.pageCount := by
  unfold State.dropLock; split <;> rfl
@[simp] theorem State.dropLock_totalSize : (s.dropLock).totalSize = s.totalSize := by
  unfold State.dropLock; split <;> rfl
@[simp] theorem State.dropLock_jedecId : (s.dropLock).jedecId = s.jedecId := by
  unfold State.dropLock; split <;> rfl
@[simp] theorem State.dropLock_uniqueId : (s.dropLock).uniqueId = s.uniqueId := by
  unfold State.dropLock; split <;> rfl
@[simp] theorem State.dropLock_manufacturer : (s.dropLock).manufacturer = s.manufacturer := by
  unfold State.dropLock; split <;> rfl
@[simp] theorem State.dropLock_model : (s.dropLock).model = s.model := by
  unfold State.dropLock; split <;> rfl
@[simp] theorem State.dropLock_initialized : (s.dropLock).initialized = s.initialized := by
  unfold State.dropLock; split <;> rfl
@[simp] theorem State.dropLock_sr1 : (s.dropLock).sr1 = s.sr1 := by
  unfold State.dropLock; split <;> rfl
@[simp] theorem State.dropLock_sr2 : (s.dropLock).sr2 = s.sr2 := by
  unfold State.dropLock; split <;> rfl
@[simp] theorem State.dropLock_sr3 : (s.dropLock).sr3 = s.sr3 := by
  unfold State.dropLock; split <;> rfl
@[simp] theorem State.dropLock_pdCount : (s.dropLock).pdCount = s.pdCount := by
  unfold State.dropLock; split <;> rfl
@[simp] theorem State.dropLock_powerMode : (s.dropLock).powerMode = s.powerMode := by
  unfold State.dropLock; split <;> rfl
@[simp] theorem State.dropLock_seq : (s.dropLock).seq = s.seq := by
  unfold State.dropLock; split <;> rfl
@[simp] theorem State.dropLock_port : (s.dropLock).port = s.port := by
  unfold State.dropLock; split <;> rfl
@[simp] theorem State.dropLock_result : (s.dropLock).result = s.result := by
  unfold State.dropLock; split <;> rfl
@[simp] theorem State.dropLock_trace : (s.dropLock).trace = s.trace ++ Safety.unlockEvents s := by
  simp only [State.dropLock, Safety.unlockEvents]; split <;> simp [State.emit]
@[simp] theorem State.dropLock_env : (s.dropLock).env = s.env := by
  unfold State.dropLock; split <;> rfl

end Sys2Proof.Machine
end

