-- ==== Sys2Proof/Laws/Ops.lean ====
section
/-! SUPPORT. One lemma per shared operation that says everything it can do: the transport, the command
frames, the gate and the lock bracket. -/

namespace Sys2Proof.Machine

open Safety

/-! ### The environment -/

/-- RX(n) is answered with exactly `n` bytes (R71). -/
@[simp] theorem answers_length (n : Nat) (e : Environment) : (Environment.answers n e).1.length = n := by
  induction n generalizing e with
  | zero => rfl
  | succ n ih => simp [Environment.answers, ih]

@[simp] theorem answers_ne_nil (n : Nat) (e : Environment) : (Environment.answers (n + 1) e).1 ≠ [] := by
  simp [Environment.answers]

@[simp] theorem Environment.frame_length (e : Environment) (bytes : List Byte) (n : Nat) :
    (e.frame bytes n).1.length = n := by simp [Environment.frame]

theorem frame_answers_ne_nil (e : Environment) (bytes : List Byte) (n : Nat) (h : 0 < n) :
    (e.frame bytes n).1 ≠ [] := by
  intro h0; have := e.frame_length bytes n; rw [h0] at this; simp at this; omega

/-- Received bytes are answered one by one. -/
theorem answers_succ (n : Nat) (e : Environment) :
    Environment.answers (n + 1) e =
      (e.answer.1 :: (Environment.answers n e.answer.2).1, (Environment.answers n e.answer.2).2) := rfl

/-- One byte from the environment is the head of what one received byte answers. -/
theorem answers_one (e : Environment) : Environment.answers 1 e = ([e.answer.1], e.answer.2) := rfl

/-! ### Frames -/

theorem State.receive_spec (s : State) (n : Nat) :
    s.receive n = ((Environment.answers n s.env).1,
      { s with trace := s.trace ++ [.rx (Environment.answers n s.env).1],
               env := (Environment.answers n s.env).2 }) := rfl

/-- A frame appends its events, takes its bytes from the environment, and changes nothing else (R117). -/
theorem State.frame_spec (s : State) (bytes : List Byte) (n : Nat) :
    s.frame bytes n = ((s.env.frame bytes n).1,
      { s with trace := s.trace ++ frameEvents bytes (s.env.frame bytes n).1,
               env := (s.env.frame bytes n).2 }) := by
  cases n with
  | zero => simp [State.frame, Environment.frame, Environment.answers, frameEvents, State.csHigh,
      State.csLow, State.transmit, State.emit]
  | succ n => simp [State.frame, Environment.frame, frameEvents, State.csHigh, State.csLow, State.transmit,
      State.receive, State.emit]

/-- A frame that receives nothing. -/
theorem State.sendFrame_spec (s : State) (bytes : List Byte) :
    s.sendFrame bytes =
      { s with trace := s.trace ++ frameEvents bytes [], env := (s.env.frame bytes 0).2 } := by
  simp [State.sendFrame, State.frame_spec, Environment.frame, Environment.answers]

/-! ### The command frames that receive -/

theorem State.cmdRdid_spec (s : State) :
    s.cmdRdid = (jedecOfBytes (s.env.frame [0x9F] 3).1,
      { s with trace := s.trace ++ frameEvents [0x9F] (s.env.frame [0x9F] 3).1,
               env := (s.env.frame [0x9F] 3).2 }) := by
  simp only [State.cmdRdid, State.frame_spec]

theorem State.cmdRuid_spec (s : State) :
    s.cmdRuid = (uidOfBytes (s.env.frame [0x4B, 0, 0, 0, 0] 8).1,
      { s with trace := s.trace ++ frameEvents [0x4B, 0, 0, 0, 0] (s.env.frame [0x4B, 0, 0, 0, 0] 8).1,
               env := (s.env.frame [0x4B, 0, 0, 0, 0] 8).2 }) := by
  simp only [State.cmdRuid, State.frame_spec]
  rfl

theorem State.cmdFread_spec (s : State) (addr : Addr) (n : Nat) :
    s.cmdFread addr n = ((s.env.frame (0x0B :: addrBytes addr ++ [0x00]) n).1,
      { s with trace := s.trace ++ frameEvents (0x0B :: addrBytes addr ++ [0x00])
                 (s.env.frame (0x0B :: addrBytes addr ++ [0x00]) n).1,
               env := (s.env.frame (0x0B :: addrBytes addr ++ [0x00]) n).2 }) := by
  simp only [State.cmdFread, State.frame_spec]
  rfl

theorem State.cmdRdsr1_spec (s : State) :
    s.cmdRdsr1 = ((s.env.frame [0x05] 1).1.getD 0 0,
      { s with trace := s.trace ++ frameEvents [0x05] (s.env.frame [0x05] 1).1,
               env := (s.env.frame [0x05] 1).2 }) := by
  simp only [State.cmdRdsr1, State.frame_spec]

theorem State.cmdRdsr2_spec (s : State) :
    s.cmdRdsr2 = ((s.env.frame [0x35] 1).1.getD 0 0,
      { s with trace := s.trace ++ frameEvents [0x35] (s.env.frame [0x35] 1).1,
               env := (s.env.frame [0x35] 1).2 }) := by
  simp only [State.cmdRdsr2, State.frame_spec]

theorem State.cmdRdsr3_spec (s : State) :
    s.cmdRdsr3 = ((s.env.frame [0x15] 1).1.getD 0 0,
      { s with trace := s.trace ++ frameEvents [0x15] (s.env.frame [0x15] 1).1,
               env := (s.env.frame [0x15] 1).2 }) := by
  simp only [State.cmdRdsr3, State.frame_spec]

/-! ### The range checks -/

/-- The range check passes where it is off or the range is within the capacity (R61). -/
theorem rangeBad_of_fits {s : State} {ea len : Nat}
    (h : s.config.rangeCheck = false ∨ ea + len ≤ s.capacity) : s.rangeBad ea len = false := by
  unfold State.rangeBad
  rcases h with h | h
  · simp [h]
  · have : ¬ s.capacity < ea + len := by omega
    simp [this]

/-- The erases' range check passes where it is off or the address is within the capacity (R61). -/
theorem eraseRangeBad_of_fits {s : State} {ea : Nat}
    (h : s.config.rangeCheck = false ∨ ea < s.capacity) : s.eraseRangeBad ea = false := by
  unfold State.eraseRangeBad
  rcases h with h | h
  · simp [h]
  · have : ¬ s.capacity ≤ ea := by omega
    simp [this]

/-! ### The gate and the lock bracket -/

/-- The gate either goes on, initialized, or ends with NotInitialized (R272). -/
theorem gate_next {s t : State} {k : State → Out} (h : gate s k = .next t) :
    (s.initialized = true ∧ k s = .next t) ∨
      (s.initialized = false ∧ t = s.finish (Result.ofStatus .notInitialized)) := by
  cases hi : s.initialized <;> simp [gate, hi, State.raise] at h
  · exact .inr ⟨rfl, h.symm⟩
  · exact .inl ⟨rfl, h⟩

@[simp] theorem gate_of_initialized {s : State} {k : State → Out} (h : s.initialized = true) :
    gate s k = k s := by simp [gate, h]

@[simp] theorem gate_of_not_initialized {s : State} {k : State → Out} (h : s.initialized = false) :
    gate s k = .next (s.finish (Result.ofStatus .notInitialized)) := by simp [gate, h, State.raise]

/-- The lock bracket either opens or is stuck (R289, U17). -/
theorem withLock_next {s t : State} {k : State → Out} (h : withLock s k = .next t) :
    s.lockReturns = true ∧ k s.takeLock = .next t := by
  unfold withLock at h
  split at h
  · exact ⟨‹_›, h⟩
  · simp at h

@[simp] theorem withLock_of_returns {s : State} {k : State → Out} (h : s.lockReturns = true) :
    withLock s k = k s.takeLock := by simp [withLock, h]

theorem State.takeLock_spec (s : State) :
    s.takeLock = { s with trace := s.trace ++ lockEvents s } := by
  unfold State.takeLock lockEvents; split <;> simp [State.emit]

theorem State.dropLock_spec (s : State) :
    s.dropLock = { s with trace := s.trace ++ unlockEvents s } := by
  unfold State.dropLock unlockEvents; split <;> simp [State.emit]

theorem State.finish_spec (s : State) (r : Result) : s.finish r = { s with result := r, seq := .idle } := rfl

end Sys2Proof.Machine
end

