-- ==== Sys2Proof/Laws/BusyWait.lean ====
section
/-! SUPPORT. Everything a busy-wait can do (R205, R206), and the mutating template built on it (R211). -/

namespace Sys2Proof.Machine

open Safety

/-- The events of some polls. -/
def pollBody (polls : List Byte) : List Event := polls.flatMap (fun b => [.rx [b], .delay 100])

theorem pollEvents_eq (dummy : Byte) (polls : List Byte) :
    pollEvents dummy polls = [.csLow, .tx [0x05], .rx [dummy]] ++ pollBody polls ++ [.csHigh] := rfl

/-- One poll (R205): the byte answered goes to S.sr1, then the delay; it ends the loop where it is not busy or
the counter has run out. -/
theorem waitLoop_succ (fuel ctr : Nat) (s : State) :
    waitLoop (fuel + 1) ctr s =
      let polled : State := { s with
        sr1 := s.env.answer.1
        trace := s.trace ++ [.rx [s.env.answer.1], .delay 100]
        env := s.env.answer.2 }
      if busyFlag s.env.answer.1 = false then ((.ok, (ctr - 100) / 1000), polled)
      else if ctr - 100 = 0 then ((.fail, 0), polled)
      else waitLoop fuel (ctr - 100) polled := by
  have hc : (if Params.pollIntervalUs ≤ ctr then ctr - Params.pollIntervalUs else 0) = ctr - 100 := by
    simp only [Params.pollIntervalUs]; split <;> omega
  simp only [waitLoop, State.receive_spec, answers_one, List.getD_cons_zero, hc, State.delay, State.emit,
    List.append_assoc]
  rfl

/-- The polling loop with `m` steps of 100 microseconds left (or a last poll where none is left): the bytes
polled are those the environment answers; those before the last are busy, the last decides and is kept in
S.sr1; nothing but S.sr1, the trace and the environment changes (R205). -/
theorem waitLoop_spec (fuel m : Nat) (s : State) (h : max 1 m ≤ fuel) :
    ∃ before last,
      before ++ [last] = (Environment.answers (before.length + 1) s.env).1 ∧
      waitLoop fuel (m * 100) s =
        ((if busyFlag last = false then (.ok, (m * 100 - 100 * (before.length + 1)) / 1000) else (.fail, 0)),
          { s with sr1 := last
                   trace := s.trace ++ pollBody (before ++ [last])
                   env := (Environment.answers (before.length + 1) s.env).2 }) ∧
      before.length < max 1 m ∧ (∀ b ∈ before, busyFlag b = true) ∧
      (busyFlag last = true → before.length + 1 = max 1 m) := by
  induction fuel generalizing m s with
  | zero => omega
  | succ fuel ih =>
    simp only [waitLoop, State.receive_spec, answers_one, List.getD_cons_zero]
    have hc : (if Params.pollIntervalUs ≤ m * 100 then m * 100 - Params.pollIntervalUs else 0)
        = (m - 1) * 100 := by
      simp only [Params.pollIntervalUs]; split <;> omega
    rw [hc]
    by_cases hb : busyFlag s.env.answer.1 = false
    · refine ⟨[], s.env.answer.1, by simp [answers_one], ?_, by simp, by simp, by simp [hb]⟩
      simp [hb, State.delay, State.emit, pollBody, answers_one]
      omega
    · have hb' : busyFlag s.env.answer.1 = true := by simpa using hb
      by_cases hm : m ≤ 1
      · refine ⟨[], s.env.answer.1, by simp [answers_one], ?_, by simp, by simp, ?_⟩
        · have : (m - 1) * 100 = 0 := by omega
          simp [hb', this, State.delay, State.emit, pollBody, answers_one]
        · intro _; simp; omega
      · have hne : (m - 1) * 100 ≠ 0 := by omega
        obtain ⟨before, last, h0, h1, h2, h3, h4⟩ := ih (m - 1)
          (State.delay { s with sr1 := s.env.answer.1, trace := s.trace ++ [Event.rx [s.env.answer.1]],
                                env := s.env.answer.2 } Params.pollIntervalUs) (by omega)
        refine ⟨s.env.answer.1 :: before, last, ?_, ?_, ?_, ?_, ?_⟩
        · rw [List.length_cons, answers_succ, List.cons_append, h0]; rfl
        · have e1 : (m - 1) * 100 - 100 * (before.length + 1) = m * 100 - 100 * (before.length + 1 + 1) := by
            omega
          simp only [hb', hne, if_false, Bool.true_eq_false, h1, e1]
          simp [State.delay, State.emit, pollBody, answers_succ]
        · simp; omega
        · simpa [hb'] using h3
        · intro hl; have := h4 hl; simp; omega

/-- WAIT in full (R205, R206): the dummy byte and the bytes polled are those the environment answers in one
frame; its status and remaining budget are those of the bytes polled, S.sr1 is the last of them, and nothing
but S.sr1, the trace and the environment changes. -/
theorem State.wait_spec (s : State) (ms : Nat) :
    ∃ dummy before last st rem,
      dummy :: (before ++ [last]) = (s.env.frame [0x05] (before.length + 2)).1 ∧
      WaitsAs ms (before ++ [last]) st rem ∧
      s.wait ms = ((st, rem),
        { s with sr1 := last
                 trace := s.trace ++ pollEvents dummy (before ++ [last])
                 env := (s.env.frame [0x05] (before.length + 2)).2 }) := by
  obtain ⟨before, last, h0, h1, h2, h3, h4⟩ := waitLoop_spec (ms * 10 + 1) (ms * 10)
    ((s.csLow.transmit [0x05]).receive 1).2 (by omega)
  refine ⟨(s.env.select.send [0x05]).answer.1, before, last,
    if busyFlag last = false then .ok else .fail,
    if busyFlag last = false then (ms * 1000 - 100 * (before.length + 1)) / 1000 else 0, ?_, ?_, ?_⟩
  · rw [h0, Environment.frame, answers_succ]; rfl
  · refine ⟨before, last, rfl, by simpa [maxPolls] using h2, h3, ?_⟩
    show (busyFlag last = false ∧ _) ∨ (busyFlag last = true ∧ _)
    by_cases hb : busyFlag last = false
    · simp [hb]
    · have hb' : busyFlag last = true := by simpa using hb
      simp [hb', maxPolls, h4 hb']
  · have e1 : ms * 10 * 100 = ms * 1000 := by omega
    rw [e1] at h1
    have e2 : ms * 1000 / Params.pollIntervalUs + 1 = ms * 10 + 1 := by
      simp only [Params.pollIntervalUs]; omega
    simp only [State.wait, e2, h1]
    by_cases hb : busyFlag last = false <;>
      simp [hb, State.receive_spec, State.csHigh, State.csLow, State.transmit, State.emit, pollEvents_eq,
        Environment.frame, Environment.answers]

/-- The status of a busy-wait is Ok or Fail. -/
theorem WaitsAs.status_cases {ms : Nat} {polls : List Byte} {st : ErrorKind} {rem : Nat}
    (h : WaitsAs ms polls st rem) : st = .ok ∨ st = .fail := by
  obtain ⟨_, _, _, _, _, h | h⟩ := h
  · exact .inl h.2.1
  · exact .inr h.2.2.1

/-- The mutating template in full (R211), for a command that is one frame and may write the cache slots: `k2`
and `k3` are what it writes to slots 2 and 3, if anything; slot 1 ends with the last byte polled. -/
theorem mutating_spec (cmd : State → State) (bytes : List Byte) (ms : Nat) (s : State)
    (k2 k3 : Option Byte) (hl : s.lockReturns = true)
    (hc : ∀ u, ∃ v, cmd u =
      { u.sendFrame bytes with sr1 := v, sr2 := k2.getD u.sr2, sr3 := k3.getD u.sr3 }) :
    EndsInWait s { s with sr2 := k2.getD s.sr2, sr3 := k3.getD s.sr3 }
      (frameEvents [0x06] [] ++ frameEvents bytes []) ((s.env.frame [0x06] 0).2.frame bytes 0).2 ms
      (mutating cmd ms s) := by
  obtain ⟨v, hv⟩ := hc s.takeLock.cmdWren
  obtain ⟨dummy, before, last, st, rem, h0, h1, h2⟩ := (cmd s.takeLock.cmdWren).wait_spec ms
  have he : (cmd s.takeLock.cmdWren).env = ((s.env.frame [0x06] 0).2.frame bytes 0).2 := by
    rw [hv]; simp [State.takeLock_spec, State.cmdWren, State.sendFrame_spec]
  rw [he] at h0 h2
  refine ⟨dummy, before, last, st, rem, h0, h1, ?_⟩
  simp only [mutating, endWait, withLock_of_returns hl, h2]
  rw [hv]
  simp [State.takeLock_spec, State.cmdWren, State.sendFrame_spec, State.dropLock_spec, State.finish,
    bracketed, lockEvents, unlockEvents]

end Sys2Proof.Machine
end

