-- ==== Sys2Proof/Laws/Memory.lean ====
section
/-! SUPPORT. The laws of the flash array: every operation keeps the canonical form, and what a byte reads as
after a write, an erase and a program. -/

namespace Sys2Proof.Machine

theorem Memory.wfFrom_mono {lo lo' : Nat} {m : Memory} (h : Memory.wfFrom lo m = true) (hl : lo' ≤ lo) :
    Memory.wfFrom lo' m = true := by
  cases m with
  | nil => rfl
  | cons c rest =>
    simp only [Memory.wfFrom, Bool.and_eq_true, decide_eq_true_eq] at h ⊢
    exact ⟨⟨Nat.le_trans hl h.1.1, h.1.2⟩, h.2⟩

/-- The parts of the canonical form at an entry. -/
theorem Memory.wfFrom_cons {lo a : Nat} {b : Byte} {rest : Memory} :
    Memory.wfFrom lo ((a, b) :: rest) = true ↔
      lo ≤ a ∧ b ≠ Memory.unlisted ∧ Memory.wfFrom (a + 1) rest = true := by
  simp only [Memory.wfFrom, Bool.and_eq_true, decide_eq_true_eq, and_assoc]

/-- An address below the entries reads as an unlisted one. -/
theorem Memory.read_below {lo addr : Nat} {m : Memory} (h : Memory.wfFrom lo m = true) (ha : addr < lo) :
    Memory.read m addr = Memory.unlisted := by
  induction m generalizing lo with
  | nil => rfl
  | cons c rest ih =>
    obtain ⟨a, b⟩ := c
    obtain ⟨h1, _, h3⟩ := Memory.wfFrom_cons.mp h
    have hne : a ≠ addr := by omega
    simpa only [Memory.read, if_neg hne] using ih h3 (by omega)

theorem Memory.remove_wfFrom {lo : Nat} {m : Memory} (addr : Nat) (h : Memory.wfFrom lo m = true) :
    Memory.wfFrom lo (Memory.remove m addr) = true := by
  induction m generalizing lo with
  | nil => rfl
  | cons c rest ih =>
    obtain ⟨a, b⟩ := c
    obtain ⟨h1, h2, h3⟩ := Memory.wfFrom_cons.mp h
    simp only [Memory.remove]
    split
    · exact Memory.wfFrom_mono h3 (by omega)
    · exact Memory.wfFrom_cons.mpr ⟨h1, h2, ih h3⟩

theorem Memory.insert_wfFrom {lo : Nat} {m : Memory} {addr : Nat} {v : Byte}
    (h : Memory.wfFrom lo m = true) (ha : lo ≤ addr) (hv : v ≠ Memory.unlisted) :
    Memory.wfFrom lo (Memory.insert m addr v) = true := by
  induction m generalizing lo with
  | nil => exact Memory.wfFrom_cons.mpr ⟨ha, hv, rfl⟩
  | cons c rest ih =>
    obtain ⟨a, b⟩ := c
    obtain ⟨h1, h2, h3⟩ := Memory.wfFrom_cons.mp h
    simp only [Memory.insert]
    split
    · exact Memory.wfFrom_cons.mpr ⟨ha, hv, Memory.wfFrom_cons.mpr ⟨by omega, h2, h3⟩⟩
    · split
      · subst_vars; exact Memory.wfFrom_cons.mpr ⟨ha, hv, h3⟩
      · exact Memory.wfFrom_cons.mpr ⟨h1, h2, ih h3 (by omega)⟩

/-- A write keeps the canonical form. -/
theorem Memory.write_wf {m : Memory} (addr : Nat) (v : Byte) (h : Memory.wf m = true) :
    Memory.wf (Memory.write m addr v) = true := by
  unfold Memory.write
  split
  · exact Memory.remove_wfFrom addr h
  · exact Memory.insert_wfFrom h (Nat.zero_le _) ‹_›

theorem Memory.read_remove {lo : Nat} {m : Memory} (h : Memory.wfFrom lo m = true) (addr x : Nat) :
    Memory.read (Memory.remove m addr) x = if addr = x then Memory.unlisted else Memory.read m x := by
  induction m generalizing lo with
  | nil => simp [Memory.remove, Memory.read]
  | cons c rest ih =>
    obtain ⟨a, b⟩ := c
    obtain ⟨_, _, h3⟩ := Memory.wfFrom_cons.mp h
    by_cases h1 : a = addr
    · subst h1
      by_cases h2 : a = x
      · subst h2; simp [Memory.remove, Memory.read_below h3 (Nat.lt_succ_self a)]
      · simp [Memory.remove, Memory.read, h2]
    · by_cases h2 : a = x
      · subst h2; simp [Memory.remove, Memory.read, h1, Ne.symm h1]
      · simp [Memory.remove, Memory.read, h1, h2, ih h3]

theorem Memory.read_insert {lo : Nat} {m : Memory} (h : Memory.wfFrom lo m = true) (addr : Nat) (v : Byte)
    (x : Nat) : Memory.read (Memory.insert m addr v) x = if addr = x then v else Memory.read m x := by
  induction m generalizing lo with
  | nil => simp [Memory.insert, Memory.read]
  | cons c rest ih =>
    obtain ⟨a, b⟩ := c
    obtain ⟨_, _, h3⟩ := Memory.wfFrom_cons.mp h
    simp only [Memory.insert]
    split
    · simp [Memory.read]
    · split
      · subst_vars
        by_cases h2 : a = x <;> simp [Memory.read, h2]
      · by_cases h2 : a = x
        · subst h2; simp [Memory.read, ‹¬ addr = a›]
        · simp [Memory.read, h2, ih h3]

/-- Read after write: the written byte at its address, every other byte as it was. -/
theorem Memory.read_write {m : Memory} (h : Memory.wf m = true) (addr : Nat) (v : Byte) (x : Nat) :
    Memory.read (Memory.write m addr v) x = if addr = x then v else Memory.read m x := by
  unfold Memory.write
  split
  · subst_vars; exact Memory.read_remove h addr x
  · exact Memory.read_insert h addr v x

theorem Memory.erase_wfFrom {lo : Nat} {m : Memory} (base size : Nat) (h : Memory.wfFrom lo m = true) :
    Memory.wfFrom lo (Memory.erase m base size) = true := by
  induction m generalizing lo with
  | nil => rfl
  | cons c rest ih =>
    obtain ⟨a, b⟩ := c
    obtain ⟨h1, h2, h3⟩ := Memory.wfFrom_cons.mp h
    unfold Memory.erase at ih ⊢
    rw [List.filter_cons]
    split
    · exact Memory.wfFrom_cons.mpr ⟨h1, h2, ih h3⟩
    · exact ih (Memory.wfFrom_mono h3 (by omega))

/-- An erase keeps the canonical form. -/
theorem Memory.erase_wf {m : Memory} (base size : Nat) (h : Memory.wf m = true) :
    Memory.wf (Memory.erase m base size) = true := Memory.erase_wfFrom base size h

/-- After an erase the region reads erased and every other byte as it was. -/
theorem Memory.read_erase {m : Memory} (base size x : Nat) :
    Memory.read (Memory.erase m base size) x =
      if base ≤ x ∧ x < base + size then Memory.unlisted else Memory.read m x := by
  induction m with
  | nil => simp [Memory.erase, Memory.read]
  | cons c rest ih =>
    obtain ⟨a, b⟩ := c
    unfold Memory.erase at ih ⊢
    rw [List.filter_cons]
    by_cases h2 : a = x
    · subst h2
      by_cases h1 : base ≤ a ∧ a < base + size
      · have : ¬ (a < base ∨ base + size ≤ a) := by omega
        simp [this, ih, h1]
      · have : a < base ∨ base + size ≤ a := by omega
        simp [this, Memory.read, h1]
    · split
      · simp only [Memory.read, if_neg h2]; exact ih
      · simp only [Memory.read, if_neg h2]; exact ih

/-- A program keeps the canonical form. -/
theorem Memory.program_wf {m : Memory} (capDev addr : Nat) (data : List Byte) (h : Memory.wf m = true) :
    Memory.wf (Memory.program m capDev addr data) = true := by
  induction data generalizing m addr with
  | nil => exact h
  | cons p rest ih => exact ih (addr + 1) (Memory.write_wf _ _ h)

/-- After a program that does not pass the end of the array, each programmed byte is its old value ANDed
with the byte sent, and every other byte is as it was (R55, R72). -/
theorem Memory.read_program {m : Memory} (capDev addr : Nat) (data : List Byte) (h : Memory.wf m = true)
    (hfit : addr + data.length ≤ capDev) (x : Nat) :
    Memory.read (Memory.program m capDev addr data) x =
      if addr ≤ x ∧ x < addr + data.length then Memory.read m x &&& data.getD (x - addr) 0xFF
      else Memory.read m x := by
  induction data generalizing m addr with
  | nil =>
    have : ¬ (addr ≤ x ∧ x < addr) := by omega
    simp [Memory.program, this]
  | cons p rest ih =>
    simp only [List.length_cons] at hfit
    have hm : addr % capDev = addr := Nat.mod_eq_of_lt (by omega)
    simp only [Memory.program, hm]
    rw [ih (addr + 1) (Memory.write_wf _ _ h) (by omega), Memory.read_write h]
    by_cases h1 : addr = x
    · subst h1
      have e1 : ¬ (addr + 1 ≤ addr ∧ addr < addr + 1 + rest.length) := by omega
      simp
    · by_cases h2 : addr + 1 ≤ x ∧ x < addr + 1 + rest.length
      · have e1 : addr ≤ x ∧ x < addr + (p :: rest).length := by simp only [List.length_cons]; omega
        have e2 : x - addr = x - (addr + 1) + 1 := by omega
        rw [if_pos h2, if_pos e1, if_neg h1, e2]
        simp
      · have e1 : ¬ (addr ≤ x ∧ x < addr + (p :: rest).length) := by simp only [List.length_cons]; omega
        rw [if_neg h2, if_neg e1, if_neg h1]

/-- A program leaves every byte as it was but those at its addresses, as the device has them. -/
theorem Memory.read_program_other {m : Memory} (capDev addr : Nat) (data : List Byte)
    (h : Memory.wf m = true) (x : Nat) (hx : ∀ j < data.length, (addr + j) % capDev ≠ x) :
    Memory.read (Memory.program m capDev addr data) x = Memory.read m x := by
  induction data generalizing m addr with
  | nil => rfl
  | cons b rest ih =>
    simp only [Memory.program]
    rw [ih _ (Memory.write_wf _ _ h)]
    · rw [Memory.read_write h, if_neg]
      exact hx 0 (by simp)
    · intro j hj
      have := hx (j + 1) (by simp; omega)
      rwa [show addr + 1 + j = addr + (j + 1) by omega]

/-- Equal reads make equal arrays: the canonical form is one form. -/
theorem Memory.ext_read {lo lo' : Nat} {m m' : Memory} (h : Memory.wfFrom lo m = true)
    (h' : Memory.wfFrom lo' m' = true) (he : ∀ x, Memory.read m x = Memory.read m' x) : m = m' := by
  induction m generalizing m' lo lo' with
  | nil =>
    cases m' with
    | nil => rfl
    | cons c' _ =>
      obtain ⟨a', b'⟩ := c'
      obtain ⟨_, h2, _⟩ := Memory.wfFrom_cons.mp h'
      have := he a'
      simp [Memory.read] at this
      exact absurd this.symm h2
  | cons c rest ih =>
    obtain ⟨a, b⟩ := c
    obtain ⟨_, h2, h3⟩ := Memory.wfFrom_cons.mp h
    cases m' with
    | nil =>
      have := he a
      simp [Memory.read] at this
      exact absurd this h2
    | cons c' rest' =>
      obtain ⟨a', b'⟩ := c'
      obtain ⟨_, h2', h3'⟩ := Memory.wfFrom_cons.mp h'
      have ha : a = a' := by
        rcases Nat.lt_trichotomy a a' with hl | hl | hl
        · have := he a
          have h4 : a' ≠ a := by omega
          simp only [Memory.read, if_true, if_neg h4, Memory.read_below h3' (show a < a' + 1 by omega)] at this
          exact absurd this h2
        · exact hl
        · have := he a'
          have h4 : a ≠ a' := by omega
          simp only [Memory.read, if_true, if_neg h4, Memory.read_below h3 (show a' < a + 1 by omega)] at this
          exact absurd this.symm h2'
      subst ha
      have hb : b = b' := by simpa [Memory.read] using he a
      subst hb
      have : rest = rest' := ih h3 h3' fun x => by
        by_cases hx : a = x
        · subst hx
          rw [Memory.read_below h3 (Nat.lt_succ_self a), Memory.read_below h3' (Nat.lt_succ_self a)]
        · simpa [Memory.read, hx] using he x
      rw [this]

end Sys2Proof.Machine
end

