-- ==== Sys2Proof/Laws/Environment.lean ====
section
/-! SUPPORT. What a frame does to the environment and to a fitted reference device (R71, R72). -/

namespace Sys2Proof.Machine

/-! ### Received bytes -/

/-- Receiving bytes changes nothing of a fitted device but its counters and its latch; without a device there
is none after. -/
theorem answers_device (n : Nat) (e : Environment) :
    (e.device = none → (Environment.answers n e).2.device = none) ∧
      ∀ d, e.device = some d → ∃ d', (Environment.answers n e).2.device = some d' ∧ d'.mem = d.mem ∧
        d'.capDev = d.capDev ∧ d'.txSeen = d.txSeen ∧ d'.dpd = d.dpd := by
  induction n generalizing e with
  | zero => exact ⟨id, fun d h => ⟨d, h, rfl, rfl, rfl, rfl⟩⟩
  | succ n ih =>
    rw [answers_succ]
    refine ⟨fun h => (ih _).1 ?_, fun d h => ?_⟩
    · simp only [Environment.answer, h]; split <;> rfl
    · obtain ⟨d', h1, h2, h3, h4, h5⟩ := (ih e.answer.2).2 d.clockOut.2 (by simp [Environment.answer, h])
      have hc : d.clockOut.2.mem = d.mem ∧ d.clockOut.2.capDev = d.capDev ∧
          d.clockOut.2.txSeen = d.txSeen ∧ d.clockOut.2.dpd = d.dpd := by
        simp only [RefDevice.clockOut, RefDevice.countPoll]
        split
        · split <;> exact ⟨rfl, rfl, rfl, rfl⟩
        · exact ⟨rfl, rfl, rfl, rfl⟩
      exact ⟨d', h1, h2.trans hc.1, h3.trans hc.2.1, h4.trans hc.2.2.1, h5.trans hc.2.2.2⟩

/-- Whether a LOCK returns is not changed by receiving bytes. -/
theorem answers_lockGrants (n : Nat) (e : Environment) :
    (Environment.answers n e).2.lockGrants = e.lockGrants := by
  induction n generalizing e with
  | zero => rfl
  | succ n ih =>
    rw [answers_succ]
    refine (ih _).trans ?_
    simp only [Environment.answer]
    split
    · rfl
    · split <;> rfl

/-! ### Frames -/

/-- Without a device a frame leaves none. -/
theorem frame_device_none (e : Environment) (bytes : List Byte) (n : Nat) (h : e.device = none) :
    (e.frame bytes n).2.device = none := by
  have hs : (e.select.send bytes).device = none := by simp [Environment.select, Environment.send, h]
  simp [Environment.frame, Environment.deselect, (answers_device n _).1 hs]

/-- A frame with a device fitted: the device at the end is one that has seen the frame's bytes, with the array
and the power-down mode it had, and then acted on them. -/
theorem frame_device (e : Environment) (bytes : List Byte) (n : Nat) (d : RefDevice)
    (h : e.device = some d) :
    ∃ d' : RefDevice, (e.frame bytes n).2.device = some d'.deselect ∧ d'.mem = d.mem ∧
      d'.capDev = d.capDev ∧ d'.txSeen = bytes ∧ d'.dpd = d.dpd := by
  have hs : (e.select.send bytes).device = some (d.select.send bytes) := by
    simp [Environment.select, Environment.send, h]
  obtain ⟨d', h1, h2, h3, h4, h5⟩ := (answers_device n _).2 _ hs
  refine ⟨d', by simp [Environment.frame, Environment.deselect, h1], h2, h3, ?_, h5⟩
  rw [h4]
  simp [RefDevice.select, RefDevice.send]

/-- A frame that receives nothing, with a device fitted: the device acts on the frame's bytes. -/
theorem frame_device_sent (e : Environment) (bytes : List Byte) (d : RefDevice) (h : e.device = some d) :
    (e.frame bytes 0).2.device =
      some (RefDevice.deselect { d with txSeen := bytes, rxSeen := 0 }) := by
  simp [Environment.frame, Environment.answers, Environment.select, Environment.send, Environment.deselect,
    h, RefDevice.select, RefDevice.send]

/-- A frame does not change whether a LOCK returns. -/
theorem frame_lockGrants (e : Environment) (bytes : List Byte) (n : Nat) :
    (e.frame bytes n).2.lockGrants = e.lockGrants := answers_lockGrants n _

/-! ### The device -/

/-- A mutating frame keeps the array's canonical form. -/
theorem RefDevice.mutate_wf (d : RefDevice) (tx : List Byte) (h : Memory.wf d.mem = true) :
    Memory.wf (d.mutate tx).mem = true := by
  unfold RefDevice.mutate
  repeat' split
  all_goals try simp only [RefDevice.startCycle, RefDevice.eraseRegion]
  all_goals first
    | exact h
    | exact Memory.erase_wf _ _ h
    | exact Memory.program_wf _ _ _ h
    | rfl

/-- Acting on a frame keeps the array's canonical form. -/
theorem RefDevice.act_wf (d : RefDevice) (tx : List Byte) (h : Memory.wf d.mem = true) :
    Memory.wf (d.act tx).mem = true := by
  unfold RefDevice.act
  repeat' split
  all_goals first
    | exact h
    | exact RefDevice.mutate_wf _ _ h

/-- The bytes of a frame that can change the array: it begins with the opcode of a program or an erase. -/
def touchesArray : List Byte → Bool
  | [] => false
  | op :: _ => ([0x02, 0x20, 0x52, 0xD8, 0xC7] : List Byte).contains op

/-- A frame that begins with no such opcode leaves the array. -/
theorem RefDevice.act_other (d : RefDevice) (tx : List Byte) (h : touchesArray tx = false) :
    (d.act tx).mem = d.mem ∧ (d.act tx).capDev = d.capDev := by
  unfold RefDevice.act
  repeat' split
  all_goals first
    | exact ⟨rfl, rfl⟩
    | skip
  unfold RefDevice.mutate
  repeat' split
  all_goals try simp only [RefDevice.startCycle, RefDevice.eraseRegion]
  all_goals first
    | exact ⟨rfl, rfl⟩
    | simp_all [touchesArray]

end Sys2Proof.Machine
end

