-- ==== Sys2Proof/Laws/Init.lean ====
section
/-! SUPPORT. Everything the parts of an initialization do (R153, R180 to R182). -/

namespace Sys2Proof.Machine

open Safety

/-- Steps 3 and 4 of R180. -/
theorem State.wakeBus_spec (s : State) :
    s.wakeBus = { s with
      pdCount := 0
      powerMode := .idle
      trace := s.trace ++ ([.csHigh, .delay 100] ++ frameEvents [0xAB] [])
      env := (s.env.deselect.frame [0xAB] 0).2 } := by
  simp [State.wakeBus, State.cmdRdp, State.sendFrame_spec, State.csHigh, State.delay, State.emit]

/-- Steps 3 to 7 of R180: a bad id ends the operation, any other is decoded. -/
theorem identify_spec (s : State) (k : JedecId → State → Out) :
    identify s k =
      let f := (s.env.deselect.frame [0xAB] 0).2.frame [0x9F] 3
      let id := jedecOfBytes f.1
      let u : State := { s with
        pdCount := 0
        powerMode := .idle
        jedecId := id
        env := f.2
        trace := s.trace ++ ([.csHigh, .delay 100] ++ frameEvents [0xAB] [] ++ frameEvents [0x9F] f.1) }
      if noChip id then u.raise .noMemoryFound
      else k id { u with
        manufacturer := Config.interpretManufacturer s.config id
        model := Config.interpretModel s.config id } := by
  simp [identify, State.wakeBus_spec, State.cmdRdid_spec]

theorem noChip_iff {id : JedecId} : noChip id = true ↔ id = 0x000000 ∨ id = 0xFFFFFF := by
  simp only [noChip, Bool.or_eq_true, decide_eq_true_eq]

theorem blockCountFits_iff {n : Nat} : blockCountFits n = true ↔ 1 ≤ n ∧ n ≤ 65535 := by
  simp only [blockCountFits, Bool.and_eq_true, decide_eq_true_eq, Params.blockCountMax]
  omega

/-- Step 9 of R180. -/
theorem State.readUid_spec (s : State) :
    s.readUid = { s with
      uniqueId := uidOfBytes (s.env.frame [0x4B, 0, 0, 0, 0] 8).1
      trace := s.trace ++ frameEvents [0x4B, 0, 0, 0, 0] (s.env.frame [0x4B, 0, 0, 0, 0] 8).1
      env := (s.env.frame [0x4B, 0, 0, 0, 0] 8).2 } := by
  simp only [State.readUid, State.cmdRuid_spec]

/-- Step 12 of R180. -/
theorem State.primeStatus_spec (s : State) :
    s.primeStatus =
      let f1 := s.env.frame [0x05] 1
      let f2 := f1.2.frame [0x35] 1
      let f3 := f2.2.frame [0x15] 1
      { s with
        sr1 := f1.1.getD 0 0
        sr2 := f2.1.getD 0 0
        sr3 := f3.1.getD 0 0
        env := f3.2
        trace := s.trace ++ (frameEvents [0x05] f1.1 ++ frameEvents [0x35] f2.1 ++
          frameEvents [0x15] f3.1) } := by
  simp only [State.primeStatus, State.cmdRdsr1_spec, State.cmdRdsr2_spec, State.cmdRdsr3_spec,
    List.append_assoc]

/-- deriveGeometry with its products worked out (R153). -/
theorem State.deriveGeometry_spec (s : State) (bc : Nat) :
    s.deriveGeometry bc = { s with
      pageSize := 256
      sectorSize := 4096
      blockSize := 65536
      blockCount := BitVec.ofNat 32 bc
      sectorCount := BitVec.ofNat 32 (bc * 16)
      pageCount := BitVec.ofNat 32 (bc * 256)
      totalSize := BitVec.ofNat 32 (bc * 65536) } := by
  have e2 : bc * 16 * 4096 = bc * 65536 := by omega
  simp only [State.deriveGeometry, Params.blockSize, Params.sectorSize, Params.pageSize,
    Nat.reduceDiv, e2]
  rw [show bc * 65536 / 256 = bc * 256 by omega]
  rfl

/-- Steps 11 to 14 of R180. -/
theorem State.complete_spec (s : State) (bc : Nat) :
    s.complete bc =
      let f1 := s.env.frame [0x05] 1
      let f2 := f1.2.frame [0x35] 1
      let f3 := f2.2.frame [0x15] 1
      { s with
        pageSize := 256
        sectorSize := 4096
        blockSize := 65536
        blockCount := BitVec.ofNat 32 bc
        sectorCount := BitVec.ofNat 32 (bc * 16)
        pageCount := BitVec.ofNat 32 (bc * 256)
        totalSize := BitVec.ofNat 32 (bc * 65536)
        sr1 := f1.1.getD 0 0
        sr2 := f2.1.getD 0 0
        sr3 := f3.1.getD 0 0
        initialized := true
        result := Result.zero
        seq := .idle
        env := f3.2
        trace := s.trace ++ (frameEvents [0x05] f1.1 ++ frameEvents [0x35] f2.1 ++
          frameEvents [0x15] f3.1) } := by
  simp only [State.complete, State.primeStatus_spec, State.deriveGeometry_spec, State.finish]

end Sys2Proof.Machine
end

