-- ==== Sys2Proof/Laws/ReadWrite.lean ====
section
/-! SUPPORT. Everything the write splitter can do (R223, R224). -/

namespace Sys2Proof.Machine

open Safety

/-- One chunk of the splitter: write-enable, page program, wait (R223). -/
theorem chunk_spec (s : State) (a : Nat) (payload : List Byte) :
    ∃ c : ChunkRun, ∃ before last st rem,
      c.addr = a ∧ c.payload = payload ∧ c.polls = before ++ [last] ∧
      c.dummy :: c.polls = ((c.sent s.env).frame [0x05] (c.polls.length + 1)).1 ∧
      WaitsAs 500 c.polls st rem ∧
      (s.cmdWren.cmdPp (frameAddr a) payload).wait Params.tPpMs = ((st, rem),
        { s with
          sr1 := last
          trace := s.trace ++ chunkEvents c
          env := ((c.sent s.env).frame [0x05] (c.polls.length + 1)).2 }) := by
  obtain ⟨dummy, before, last, st, rem, h0, h1, h2⟩ :=
    (s.cmdWren.cmdPp (frameAddr a) payload).wait_spec Params.tPpMs
  have he : (s.cmdWren.cmdPp (frameAddr a) payload).env
      = ChunkRun.sent ⟨a, payload, dummy, before ++ [last]⟩ s.env := by
    simp [State.cmdWren, State.cmdPp, State.sendFrame_spec, ChunkRun.sent, ChunkRun.frame]
  have hl : (before ++ [last]).length + 1 = before.length + 2 := by simp
  rw [he] at h0 h2
  refine ⟨⟨a, payload, dummy, before ++ [last]⟩, before, last, st, rem, rfl, rfl, rfl, ?_, h1, ?_⟩
  · rw [hl]; exact h0
  · rw [h2, hl]
    simp [State.cmdWren, State.cmdPp, State.sendFrame_spec, chunkEvents, ChunkRun.frame]

/-- The splitter's loop over the bytes `data` from address `a`: the chunks it carried out are those of R223;
it either carried them all, each wait Ok, or stopped at the first wait that failed (D20). Nothing but S.sr1,
the trace and the environment changes. -/
theorem writeLoop_spec (fuel a : Nat) (data : List Byte) (s : State) (hp : 0 < s.pageSize.toNat)
    (hf : data.length ≤ fuel) :
    ∃ runs left st v e,
      writeLoop fuel a data s = (st,
        { s with sr1 := v, trace := s.trace ++ runs.flatMap chunkEvents, env := e }) ∧
      ChunksFrom s.pageSize.toNat s.env a data runs left e ∧
      ((st = .ok ∧ left = [] ∧ ∀ c ∈ runs, ∃ rem, WaitsAs 500 c.polls .ok rem) ∨
        (st = .fail ∧ ∃ init c before, runs = init ++ [c] ∧ c.polls = before ++ [v] ∧
          (∀ c ∈ init, ∃ rem, WaitsAs 500 c.polls .ok rem) ∧ WaitsAs 500 c.polls .fail 0)) := by
  induction fuel generalizing a data s with
  | zero =>
    have : data = [] := List.length_eq_zero_iff.mp (by omega)
    exact ⟨[], [], .ok, s.sr1, s.env, by simp [writeLoop], by simp [ChunksFrom, this], .inl (by simp)⟩
  | succ fuel ih =>
    by_cases hd : data.length = 0
    · have : data = [] := List.length_eq_zero_iff.mp hd
      exact ⟨[], [], .ok, s.sr1, s.env, by simp [writeLoop, this], by simp [ChunksFrom, this],
        .inl (by simp)⟩
    · have hne : data ≠ [] := fun h => hd (by simp [h])
      have hroom : 0 < s.room a := by
        have := Nat.mod_lt a hp; simp only [State.room]; omega
      have htake : data.take (s.chunk a data.length) = data.take (s.room a) := by
        simp only [State.chunk]; split
        · rfl
        · rw [List.take_length, List.take_of_length_le (by omega)]
      have hlen : (data.take (s.room a)).length = s.chunk a data.length := by
        simp only [List.length_take, State.chunk]; split <;> omega
      obtain ⟨c, before, last, st, rem, ha, hpay, hpolls, hans, hw, hc⟩ :=
        chunk_spec s a (data.take (s.chunk a data.length))
      have hplen : c.payload.length = s.chunk a data.length := by rw [hpay, htake, hlen]
      by_cases hst : st = .fail
      · refine ⟨[c], data.drop (s.chunk a data.length), .fail, last, _, ?_,
          ⟨hne, ha, by rw [hpay, htake]; rfl, hans, by rw [hplen], rfl⟩,
          .inr ⟨rfl, [], c, before, rfl, hpolls, by simp, ?_⟩⟩
        · simp [writeLoop, hne, hc, hst]
        · subst hst
          obtain ⟨b, l, _, _, _, h | h⟩ := id hw
          · simp at h
          · rw [← h.2.2.2]; exact hw
      · have hok : st = .ok := (WaitsAs.status_cases hw).resolve_right hst
        subst hok
        obtain ⟨runs, left, st', v, e', h1, h2, h3⟩ := ih (a + s.chunk a data.length)
          (data.drop (s.chunk a data.length))
          { s with
            sr1 := last
            trace := s.trace ++ chunkEvents c
            env := ((c.sent s.env).frame [0x05] (c.polls.length + 1)).2 } hp
          (by simp [State.chunk]; split <;> omega)
        refine ⟨c :: runs, left, st', v, e', ?_,
          ⟨hne, ha, by rw [hpay, htake]; rfl, hans, by rw [hplen]; exact h2⟩, ?_⟩
        · simp only [writeLoop, if_neg hd, hc]
          rw [if_neg (by decide), h1]
          simp
        · rcases h3 with ⟨h3, h4, h5⟩ | ⟨h3, init, c', b, h4, h5, h6, h7⟩
          · refine .inl ⟨h3, h4, ?_⟩
            intro x hx
            rcases List.mem_cons.mp hx with rfl | hx
            · exact ⟨rem, hw⟩
            · exact h5 x hx
          · refine .inr ⟨h3, c :: init, c', b, by rw [h4]; rfl, h5, ?_, h7⟩
            intro x hx
            rcases List.mem_cons.mp hx with rfl | hx
            · exact ⟨rem, hw⟩
            · exact h6 x hx

end Sys2Proof.Machine
end

