-- ==== Sys2Proof/Laws/Scanner.lean ====
section
/-! SUPPORT. Everything the empty-region scanner can do (R265, R266). -/

namespace Sys2Proof.Machine

open Safety

/-- The scanner's loop over `rem` bytes from address `a`: it either read them all and found them erased, or
stopped at the first probe that held another byte. Nothing but the trace and the environment changes. -/
theorem scanLoop_spec (fuel a rem : Nat) (s : State) (hf : rem ≤ fuel) :
    ∃ probes left st e,
      scanLoop fuel a rem s = (st,
        { s with trace := s.trace ++ probes.flatMap (probeEvents s), env := e }) ∧
      ProbesFrom s.config.probeSize s.env a rem probes left e ∧
      ((st = .ok ∧ left = 0 ∧ ∀ p ∈ probes, p.erased = true) ∨
        (st = .regionIsNotEmpty ∧ ∃ init p, probes = init ++ [p] ∧ (∀ p ∈ init, p.erased = true) ∧
          p.erased = false)) := by
  induction fuel generalizing a rem s with
  | zero =>
    have : rem = 0 := by omega
    exact ⟨[], 0, .ok, s.env, by simp [scanLoop], by simp [ProbesFrom, this], .inl (by simp)⟩
  | succ fuel ih =>
    by_cases hr : rem = 0
    · exact ⟨[], 0, .ok, s.env, by simp [scanLoop, hr], by simp [ProbesFrom, hr], .inl (by simp)⟩
    · have hpos := s.config.probeSize_pos
      let f := s.env.frame (ProbeRun.frame ⟨a, []⟩) (min s.config.probeSize rem)
      have hd : s.takeLock.cmdFread (frameAddr a) (min s.config.probeSize rem) = (f.1,
          { s with
            trace := s.trace ++ lockEvents s ++ frameEvents (ProbeRun.frame ⟨a, []⟩) f.1
            env := f.2 }) := by
        simp only [State.cmdFread_spec, State.takeLock_spec]
        rfl
      by_cases he : f.1.all (· == Params.erasedByte) = true
      · obtain ⟨probes, left, st, e', h1, h2, h3⟩ := ih (a + min s.config.probeSize rem)
          (rem - min s.config.probeSize rem)
          { s with trace := s.trace ++ probeEvents s ⟨a, f.1⟩, env := f.2 } (by omega)
        refine ⟨⟨a, f.1⟩ :: probes, left, st, e', ?_, ⟨by omega, rfl, rfl, h2⟩, ?_⟩
        · simp only [scanLoop, hr, if_false, hd, he, if_true]
          simp only [State.dropLock_spec]
          have : (s.trace ++ lockEvents s ++ frameEvents (ProbeRun.frame ⟨a, []⟩) f.1) ++ unlockEvents s
              = s.trace ++ probeEvents s ⟨a, f.1⟩ := by
            simp [probeEvents, bracketed, ProbeRun.frame]
          simp only [unlockEvents] at this ⊢
          rw [this, h1]
          simp only [List.append_assoc, List.flatMap_cons]
          rfl
        · rcases h3 with ⟨h3, h4, h5⟩ | ⟨h3, init, p, h4, h5, h6⟩
          · refine .inl ⟨h3, h4, ?_⟩
            intro p hp
            rcases List.mem_cons.mp hp with rfl | hp
            · exact he
            · exact h5 p hp
          · refine .inr ⟨h3, _ :: init, p, by rw [h4]; rfl, ?_, h6⟩
            intro p hp
            rcases List.mem_cons.mp hp with rfl | hp
            · exact he
            · exact h5 p hp
      · have he' : f.1.all (· == Params.erasedByte) = false := by simpa using he
        refine ⟨[⟨a, f.1⟩], rem - min s.config.probeSize rem, .regionIsNotEmpty, f.2,
          ?_, ⟨by omega, rfl, rfl, rfl, rfl⟩, .inr ⟨rfl, [], _, rfl, by simp, he'⟩⟩
        simp only [scanLoop, hr, if_false, hd, he', Bool.false_eq_true]
        simp [State.dropLock_spec, probeEvents, bracketed, lockEvents, unlockEvents, ProbeRun.frame]

end Sys2Proof.Machine
end

