-- ==== Sys2Proof/Laws/Exec.lean ====
section
/-! SUPPORT. What every instruction can do on the port, said once: its events are those of a few pieces of
traffic, in lock brackets or outside them, and the environment after it is the one these pieces leave. -/

namespace Sys2Proof.Machine

open Safety

/-- One piece of traffic: chip-select released with the settle delay, a frame, or a polling frame. -/
inductive Piece where
  | settle
  | frame (bytes received : List Byte)
  | poll (dummy : Byte) (polls : List Byte)

/-- The events of a piece. -/
def Piece.events : Piece → List Event
  | .settle => [.csHigh, .delay 100]
  | .frame bytes received => frameEvents bytes received
  | .poll dummy polls => pollEvents dummy polls

/-- What a piece does to the environment. -/
def Piece.run (e : Environment) : Piece → Environment
  | .settle => e.deselect
  | .frame bytes received => (e.frame bytes received.length).2
  | .poll _ polls => (e.frame [0x05] (polls.length + 1)).2

/-- The bytes of a frame. -/
def Piece.sends : Piece → List (List Byte)
  | .settle => []
  | .frame bytes _ => [bytes]
  | .poll _ _ => [[0x05]]

/-- The traffic of an instruction: pieces outside any lock bracket, or groups of pieces, each in its own. -/
inductive Traffic where
  | plain (pieces : List Piece)
  | locked (groups : List (List Piece))

/-- All the pieces, in order. -/
def Traffic.pieces : Traffic → List Piece
  | .plain ps => ps
  | .locked gs => gs.flatten

/-- The events of the traffic. -/
def Traffic.events (s : State) : Traffic → List Event
  | .plain ps => ps.flatMap Piece.events
  | .locked gs => gs.flatMap fun ps => bracketed s (ps.flatMap Piece.events)

/-- The instruction took `s` to `t` with this traffic. -/
structure Ran (s t : State) (tr : Traffic) : Prop where
  trace  : t.trace = s.trace ++ tr.events s
  env    : t.env = tr.pieces.foldl Piece.run s.env
  config : t.config = s.config
  port   : t.port = s.port
  seq    : t.seq = .idle

/-- An operation that ends before any event. -/
theorem Ran.finish (s : State) (r : Result) : Ran s (s.finish r) (.plain []) :=
  ⟨by simp [Traffic.events], rfl, rfl, rfl, rfl⟩

/-- The traffic of one polling frame. -/
theorem wait_piece (s : State) (ms : Nat) :
    ∃ dummy before last st rem, WaitsAs ms (before ++ [last]) st rem ∧
      s.wait ms = ((st, rem), { s with
        sr1 := last
        trace := s.trace ++ Piece.events (.poll dummy (before ++ [last]))
        env := Piece.run s.env (.poll dummy (before ++ [last])) }) := by
  obtain ⟨d, b, l, st, rem, _, h1, h2⟩ := s.wait_spec ms
  exact ⟨d, b, l, st, rem, h1, by rw [h2]; simp [Piece.events, Piece.run]⟩

/-- The pieces of a chunk. -/
def chunkPieces (c : ChunkRun) : List Piece :=
  [.frame [0x06] [], .frame c.frame [], .poll c.dummy c.polls]

theorem chunkEvents_pieces (c : ChunkRun) : chunkEvents c = (chunkPieces c).flatMap Piece.events := by
  simp [chunkEvents, chunkPieces, Piece.events]

theorem ChunksFrom.env {page a : Nat} {e e' : Environment} {data left : List Byte} {runs : List ChunkRun}
    (h : ChunksFrom page e a data runs left e') :
    e' = (runs.flatMap chunkPieces).foldl Piece.run e := by
  induction runs generalizing e a data with
  | nil => simpa using h.2
  | cons c rest ih =>
    obtain ⟨_, _, _, _, h⟩ := h
    rw [ih h]
    simp [chunkPieces, Piece.run, ChunkRun.sent]

theorem ProbesFrom.env {size a rem left : Nat} {e e' : Environment} {probes : List ProbeRun}
    (h : ProbesFrom size e a rem probes left e') :
    e' = (probes.map fun p => Piece.frame p.frame p.received).foldl Piece.run e := by
  induction probes generalizing e a rem with
  | nil => simpa using h.2
  | cons p rest ih =>
    obtain ⟨_, _, hr, h⟩ := h
    rw [ih h]
    have : p.received.length = min size rem := by rw [hr]; simp
    simp [Piece.run, this]

/-- The pieces of INIT after the id is accepted: the unique id and the three status registers, as far as it
got (R180 steps 8 to 12). -/
def laterPieces (u v1 v2 v3 : List Byte) (n : Nat) : List Piece :=
  [Piece.frame [0x4B, 0, 0, 0, 0] u, .frame [0x05] v1, .frame [0x35] v2, .frame [0x15] v3].take n

/-- Which traffic an instruction can have (R118 to R265): none where it ends before any event. -/
def Emits (i : Instr) (tr : Traffic) : Prop :=
  match i with
  | .wren => tr = .plain [.frame [0x06] []]
  | .wrdi => tr = .plain [.frame [0x04] []]
  | .rdp => tr = .plain [.frame [0xAB] []]
  | .dpd => tr = .plain [.frame [0xB9] []]
  | .rdid => ∃ r, tr = .plain [.frame [0x9F] r]
  | .ruid => ∃ r, tr = .plain [.frame [0x4B, 0, 0, 0, 0] r]
  | .fread a _ => ∃ r, tr = .plain [.frame (0x0B :: addrBytes a ++ [0]) r]
  | .pp a p => tr = .plain [.frame (0x02 :: addrBytes a ++ p) []]
  | .se a => tr = .plain [.frame (0x20 :: addrBytes a) []]
  | .be32 a => tr = .plain [.frame (0x52 :: addrBytes a) []]
  | .be64 a => tr = .plain [.frame (0xD8 :: addrBytes a) []]
  | .ce => tr = .plain [.frame [0xC7] []]
  | .rdsr1 => ∃ r, tr = .plain [.frame [0x05] r]
  | .rdsr2 => ∃ r, tr = .plain [.frame [0x35] r]
  | .rdsr3 => ∃ r, tr = .plain [.frame [0x15] r]
  | .wrsr1 v => tr = .plain [.frame [0x01, v] []]
  | .wrsr2 v => tr = .plain [.frame [0x31, v] []]
  | .wrsr3 v => tr = .plain [.frame [0x11, v] []]
  | .poll _ => tr = .plain [] ∨ ∃ d ps, tr = .plain [.poll d ps]
  | .init | .initNoid _ =>
    tr = .plain [] ∨ ∃ r u v1 v2 v3 n,
      tr = .plain ([.settle, .frame [0xAB] [], .frame [0x9F] r] ++ laterPieces u v1 v2 v3 n)
  | .enterPd => tr = .plain [] ∨ tr = .locked [[]] ∨ tr = .locked [[.frame [0xB9] []]]
  | .exitPd => tr = .plain [] ∨ tr = .locked [[]] ∨ tr = .locked [[.frame [0xAB] []]]
  | .read _ _ _ _ => tr = .plain [] ∨ ∃ a r, tr = .locked [[.frame (0x0B :: addrBytes a ++ [0]) r]]
  | .write _ _ _ _ _ =>
    tr = .plain [] ∨ ∃ (runs : List ChunkRun) (tail : List Piece), tr = .locked [runs.flatMap chunkPieces ++ tail] ∧
      (tail = [] ∨ ∃ d ps, tail = [.poll d ps])
  | .erase4k _ _ _ =>
    tr = .plain [] ∨ ∃ a d ps, tr = .locked [[.frame [0x06] [], .frame (0x20 :: addrBytes a) [], .poll d ps]]
  | .erase32k _ _ _ =>
    tr = .plain [] ∨ ∃ a d ps, tr = .locked [[.frame [0x06] [], .frame (0x52 :: addrBytes a) [], .poll d ps]]
  | .erase64k _ _ _ =>
    tr = .plain [] ∨ ∃ a d ps, tr = .locked [[.frame [0x06] [], .frame (0xD8 :: addrBytes a) [], .poll d ps]]
  | .eraseChip =>
    tr = .plain [] ∨ ∃ d ps, tr = .locked [[.frame [0x06] [], .frame [0xC7] [], .poll d ps]]
  | .isEmpty _ _ _ _ =>
    tr = .plain [] ∨ ∃ probes : List ProbeRun,
      tr = .locked (probes.map fun p => [Piece.frame p.frame p.received])
  | .rdSr1 => tr = .plain [] ∨ ∃ r, tr = .locked [[.frame [0x05] r]]
  | .rdSr2 => tr = .plain [] ∨ ∃ r, tr = .locked [[.frame [0x35] r]]
  | .rdSr3 => tr = .plain [] ∨ ∃ r, tr = .locked [[.frame [0x15] r]]
  | .wrSr1 v =>
    tr = .plain [] ∨ ∃ d ps, tr = .locked [[.frame [0x06] [], .frame [0x01, v] [], .poll d ps]]
  | .wrSr2 v =>
    tr = .plain [] ∨ ∃ d ps, tr = .locked [[.frame [0x06] [], .frame [0x31, v] [], .poll d ps]]
  | .wrSr3 v =>
    tr = .plain [] ∨ ∃ d ps, tr = .locked [[.frame [0x06] [], .frame [0x11, v] [], .poll d ps]]
  | .writeEnable => tr = .plain [] ∨ tr = .locked [[.frame [0x06] []]]
  | .writeDisable => tr = .plain [] ∨ tr = .locked [[.frame [0x04] []]]
  | .waitBusy _ => tr = .plain [] ∨ ∃ d ps, tr = .locked [[.poll d ps]]
  | .rdJedec => tr = .plain [] ∨ ∃ r, tr = .locked [[.frame [0x9F] r]]
  | .rdUid => tr = .plain [] ∨ ∃ r, tr = .locked [[.frame [0x4B, 0, 0, 0, 0] r]]
  | .pageToSector _ | .pageToBlock _ | .sectorToBlock _ | .sectorToPage _ | .blockToPage _
  | .blockToSector _ | .idManufacturer _ | .idModel _ | .idBlockcount _ => tr = .plain []

/-- A frame outside a lock bracket, and the end of the instruction. -/
theorem Ran.frame {s t : State} (bytes : List Byte) (n : Nat) (r : Result)
    (h : t = (s.frame bytes n).2.finish r) : Ran s t (.plain [.frame bytes (s.env.frame bytes n).1]) := by
  subst h
  refine ⟨?_, ?_, ?_, ?_, rfl⟩ <;>
    simp [State.frame_spec, State.finish, Traffic.events, Traffic.pieces, Piece.events, Piece.run]

/-- A frame outside a lock bracket that receives nothing. -/
theorem Ran.send {s t : State} (bytes : List Byte) (r : Result) (h : t = (s.sendFrame bytes).finish r) :
    Ran s t (.plain [.frame bytes []]) := by
  subst h
  refine ⟨?_, ?_, ?_, ?_, rfl⟩ <;>
    simp [State.sendFrame_spec, State.finish, Traffic.events, Traffic.pieces, Piece.events, Piece.run]

/-- The mutating template's traffic (R211). -/
theorem EndsInWait.ran {s t base : State} {bytes : List Byte} {ms : Nat}
    (h : EndsInWait s base (frameEvents [0x06] [] ++ frameEvents bytes [])
      ((s.env.frame [0x06] 0).2.frame bytes 0).2 ms (.next t))
    (hc : base.config = s.config) (hp : base.port = s.port) :
    ∃ d ps, Ran s t (.locked [[.frame [0x06] [], .frame bytes [], .poll d ps]]) := by
  obtain ⟨d, b, l, st, rem, _, _, h⟩ := h
  injection h with h
  subst h
  refine ⟨d, b ++ [l], ?_, ?_, hc, hp, rfl⟩ <;>
    simp [Traffic.events, Traffic.pieces, Piece.events, Piece.run]

/-- What a gated operation that opens its bracket at once can do, from what its body does. -/
theorem gate_lock_ran {s t : State} {k : State → Out} {P : Traffic → Prop}
    (h : gate s (fun s => withLock s k) = .next t) (h0 : P (.plain []))
    (hk : k s.takeLock = .next t → ∃ tr, Ran s t tr ∧ P tr) : ∃ tr, Ran s t tr ∧ P tr := by
  rcases gate_next h with ⟨_, h⟩ | ⟨_, rfl⟩
  · exact hk (withLock_next h).2
  · exact ⟨_, Ran.finish s _, h0⟩

/-- One frame in the lock bracket, and what it returned. -/
theorem Ran.locked {s t u : State} (bytes : List Byte) (n : Nat) (r : Result)
    (ht : t = u.dropLock.finish r) (hc : u.config = s.config) (hp : u.port = s.port)
    (hu : u.trace = s.trace ++ lockEvents s ++ frameEvents bytes (s.env.frame bytes n).1)
    (he : u.env = (s.env.frame bytes n).2) :
    Ran s t (.locked [[.frame bytes (s.env.frame bytes n).1]]) := by
  subst ht
  refine ⟨?_, ?_, ?_, ?_, rfl⟩ <;>
    simp [State.dropLock_spec, State.finish, Traffic.events, Traffic.pieces, Piece.events, Piece.run,
      bracketed, unlockEvents, hc, hp, hu, he]

/-- One frame in the lock bracket that receives nothing. -/
theorem Ran.lockedSend {s t : State} (bytes : List Byte) (r : Result)
    (h : t = (s.takeLock.sendFrame bytes).dropLock.finish r) : Ran s t (.locked [[.frame bytes []]]) := by
  subst h
  refine ⟨?_, ?_, ?_, ?_, rfl⟩ <;>
    simp [State.takeLock_spec, State.sendFrame_spec, State.dropLock_spec, State.finish, Traffic.events,
      Traffic.pieces, Piece.events, Piece.run, bracketed, unlockEvents]

/-- A mutating operation past its gate and checks. -/
theorem mutating_ran {s t : State} {cmd : State → State} {bytes : List Byte} {ms : Nat}
    (h : mutating cmd ms s = .next t) (k2 k3 : Option Byte)
    (hc : ∀ u, ∃ v, cmd u =
      { u.sendFrame bytes with sr1 := v, sr2 := k2.getD u.sr2, sr3 := k3.getD u.sr3 }) :
    ∃ d ps, Ran s t (.locked [[.frame [0x06] [], .frame bytes [], .poll d ps]]) := by
  have hl := (withLock_next h).1
  have := mutating_spec cmd bytes ms s k2 k3 hl hc
  rw [h] at this
  exact EndsInWait.ran this rfl rfl

/-- Steps 9 to 14 of R180. -/
theorem complete_ran (u : State) (bc : Nat) :
    ∃ a v1 v2 v3, (u.readUid.complete bc).trace = u.trace ++ (laterPieces a v1 v2 v3 4).flatMap Piece.events ∧
      (u.readUid.complete bc).env = (laterPieces a v1 v2 v3 4).foldl Piece.run u.env := by
  let f1 := u.env.frame [0x4B, 0, 0, 0, 0] 8
  let f2 := f1.2.frame [0x05] 1
  let f3 := f2.2.frame [0x35] 1
  refine ⟨f1.1, f2.1, f3.1, (f3.2.frame [0x15] 1).1, ?_, ?_⟩ <;>
    simp [State.complete_spec, State.readUid_spec, laterPieces, Piece.events, Piece.run, f1, f2, f3]

/-- INIT and INIT_NOID past their first checks (R180 steps 3 on). -/
theorem identify_ran {s t : State} {k : JedecId → State → Out} (h : identify s k = .next t)
    (hk : ∀ id u, k id u = .next t → t.config = u.config ∧ t.port = u.port ∧ t.seq = .idle ∧
      ∃ a v1 v2 v3 n, t.trace = u.trace ++ (laterPieces a v1 v2 v3 n).flatMap Piece.events ∧
        t.env = (laterPieces a v1 v2 v3 n).foldl Piece.run u.env) :
    ∃ r a v1 v2 v3 n, Ran s t
      (.plain ([.settle, .frame [0xAB] [], .frame [0x9F] r] ++ laterPieces a v1 v2 v3 n)) := by
  rw [identify_spec] at h
  simp only at h
  refine ⟨((s.env.deselect.frame [0xAB] 0).2.frame [0x9F] 3).1, ?_⟩
  split at h
  · simp only [State.raise, Host.Outcome.next.injEq] at h
    subst h
    refine ⟨[], [], [], [], 0, ?_, ?_, rfl, rfl, rfl⟩ <;>
      simp [State.finish, Traffic.events, Traffic.pieces, Piece.events, Piece.run, laterPieces]
  · obtain ⟨hc, hp, hs, a, v1, v2, v3, n, ht, he⟩ := hk _ _ h
    refine ⟨a, v1, v2, v3, n, ?_, ?_, hc, hp, hs⟩
    · rw [ht]
      simp [Traffic.events, Piece.events]
    · rw [he]
      simp [Traffic.pieces, Piece.run]

/-- A conversion sends nothing. -/
theorem convert_ran {s t : State} {index : Word} {f g : State → Word} (h : convert index f g s = .next t) :
    Ran s t (.plain []) := by
  rcases gate_next h with ⟨_, h⟩ | ⟨_, rfl⟩
  · injection h with h; subst h; exact Ran.finish s _
  · exact Ran.finish s _

/-- An addressed erase past its gate. -/
theorem eraseAt_ran {s t : State} {cmd : State → Addr → State} {op : Byte} {ms : Nat} {ea : State → Nat}
    (hc : ∀ u a, cmd u a = u.sendFrame (op :: addrBytes a)) (h : gate s (fun s => eraseAt cmd ms (ea s) s) = .next t) :
    ∃ tr, Ran s t tr ∧ (tr = .plain [] ∨ ∃ a d ps,
      tr = .locked [[.frame [0x06] [], .frame (op :: addrBytes a) [], .poll d ps]]) := by
  rcases gate_next h with ⟨_, h⟩ | ⟨_, rfl⟩
  · unfold eraseAt at h
    split at h
    · injection h with h; subst h; exact ⟨_, Ran.finish s _, .inl rfl⟩
    · obtain ⟨d, ps, hr⟩ := mutating_ran (bytes := op :: addrBytes (frameAddr (ea s))) h none none
        fun u => ⟨u.sr1, by rw [hc]; simp [State.sendFrame_spec]⟩
      exact ⟨_, hr, .inr ⟨_, d, ps, rfl⟩⟩
  · exact ⟨_, Ran.finish s _, .inl rfl⟩

/-- A mutating operation with no operand check (R211). -/
theorem gate_mutating_ran {s t : State} {cmd : State → State} {bytes : List Byte} {ms : Nat}
    (k2 k3 : Option Byte)
    (hc : ∀ u, ∃ v, cmd u =
      { u.sendFrame bytes with sr1 := v, sr2 := k2.getD u.sr2, sr3 := k3.getD u.sr3 })
    (h : gate s (mutating cmd ms) = .next t) :
    ∃ tr, Ran s t tr ∧ (tr = .plain [] ∨ ∃ d ps,
      tr = .locked [[.frame [0x06] [], .frame bytes [], .poll d ps]]) := by
  rcases gate_next h with ⟨_, h⟩ | ⟨_, rfl⟩
  · obtain ⟨d, ps, hr⟩ := mutating_ran h k2 k3 hc
    exact ⟨_, hr, .inr ⟨d, ps, rfl⟩⟩
  · exact ⟨_, Ran.finish s _, .inl rfl⟩

/-- READ's traffic. -/
theorem execRead_ran {s t : State} {unit : AddrUnit} {index offset len : Word}
    (h : execRead unit index offset len s = .next t) :
    ∃ tr, Ran s t tr ∧ Emits (.read unit index offset len) tr := by
  rcases gate_next h with ⟨_, h⟩ | ⟨_, rfl⟩
  · simp only at h
    split at h
    · injection h with h; subst h; exact ⟨_, Ran.finish s _, .inl rfl⟩
    · split at h
      · injection h with h; subst h; exact ⟨_, Ran.finish s _, .inl rfl⟩
      · have h := (withLock_next h).2
        simp only [State.cmdFread_spec, Host.Outcome.next.injEq] at h
        refine ⟨_, Ran.locked (0x0B :: addrBytes (frameAddr (s.effAddr unit index offset)) ++ [0]) len.toNat _
          h.symm ?_ ?_ ?_ ?_, .inr ⟨_, _, rfl⟩⟩ <;> simp [State.takeLock_spec]
  · exact ⟨_, Ran.finish s _, .inl rfl⟩

/-- The splitter's traffic from any state: some chunks (R223). -/
theorem writeLoop_ran (fuel a : Nat) (data : List Byte) (s : State) :
    ∃ (runs : List ChunkRun) (st : ErrorKind) (v : Byte),
      writeLoop fuel a data s = (st, { s with
        sr1 := v
        trace := s.trace ++ (runs.flatMap chunkPieces).flatMap Piece.events
        env := (runs.flatMap chunkPieces).foldl Piece.run s.env }) := by
  induction fuel generalizing a data s with
  | zero => exact ⟨[], .ok, s.sr1, by simp [writeLoop]⟩
  | succ fuel ih =>
    by_cases hd : data.length = 0
    · exact ⟨[], .ok, s.sr1, by simp [writeLoop, hd]⟩
    · obtain ⟨c, before, last, st, rem, ha, hpay, hpolls, hans, hw, hc⟩ :=
        chunk_spec s a (data.take (s.chunk a data.length))
      have he : ((c.sent s.env).frame [0x05] (c.polls.length + 1)).2 = (chunkPieces c).foldl Piece.run s.env := by
        simp [chunkPieces, Piece.run, ChunkRun.sent]
      rw [he, chunkEvents_pieces] at hc
      by_cases hst : st = .fail
      · refine ⟨[c], .fail, last, ?_⟩
        simp only [writeLoop, if_neg hd, hc]
        rw [if_pos hst]
        simp
      · obtain ⟨runs, st', v, h⟩ := ih (a + s.chunk a data.length) (data.drop (s.chunk a data.length)) _
        refine ⟨c :: runs, st', v, ?_⟩
        simp only [writeLoop, if_neg hd, hc]
        rw [if_neg hst, h]
        simp

/-- WRITE's traffic (R223). -/
theorem execWrite_ran {s t : State} {unit : AddrUnit} {index offset len : Word} {data : List Byte}
    (h : execWrite unit index offset len data s = .next t) :
    ∃ tr, Ran s t tr ∧ Emits (.write unit index offset len data) tr := by
  rcases gate_next h with ⟨_, h⟩ | ⟨_, rfl⟩
  · simp only at h
    split at h
    · injection h with h; subst h; exact ⟨_, Ran.finish s _, .inl rfl⟩
    · split at h
      · injection h with h; subst h; exact ⟨_, Ran.finish s _, .inl rfl⟩
      · have h := (withLock_next h).2
        obtain ⟨runs, st, v, hr⟩ :=
          writeLoop_ran data.length (s.effAddr unit index offset) data s.takeLock
        simp only [State.program, hr] at h
        by_cases hst : st = .fail
        · rw [if_pos hst] at h
          injection h with h; subst h
          refine ⟨_, ⟨?_, ?_, ?_, ?_, rfl⟩, .inr ⟨runs, [], rfl, .inl rfl⟩⟩ <;>
            simp [State.takeLock_spec, State.dropLock_spec, State.finish, Traffic.events, Traffic.pieces,
              bracketed, unlockEvents]
        · rw [if_neg hst] at h
          obtain ⟨d, b, l, st', rem, _, hw⟩ := wait_piece { s.takeLock with
            sr1 := v
            trace := s.takeLock.trace ++ (runs.flatMap chunkPieces).flatMap Piece.events
            env := (runs.flatMap chunkPieces).foldl Piece.run s.takeLock.env } Params.tPpMs
          rw [hw] at h
          injection h with h; subst h
          refine ⟨_, ⟨?_, ?_, ?_, ?_, rfl⟩, .inr ⟨runs, _, rfl, .inr ⟨d, b ++ [l], rfl⟩⟩⟩ <;>
            simp [State.takeLock_spec, State.dropLock_spec, State.finish, Traffic.events, Traffic.pieces,
              bracketed, unlockEvents]
  · exact ⟨_, Ran.finish s _, .inl rfl⟩

theorem flatten_singletons {α β : Type} (f : α → β) (l : List α) :
    (l.map fun x => [f x]).flatten = l.map f := by
  induction l <;> simp_all

/-- IS_EMPTY's traffic (R265). -/
theorem execIsEmpty_ran {s t : State} {unit : AddrUnit} {index offset len : Word}
    (h : execIsEmpty unit index offset len s = .next t) :
    ∃ tr, Ran s t tr ∧ Emits (.isEmpty unit index offset len) tr := by
  rcases gate_next h with ⟨_, h⟩ | ⟨_, rfl⟩
  · simp only at h
    split at h
    · injection h with h; subst h; exact ⟨_, Ran.finish s _, .inl rfl⟩
    · split at h
      · injection h with h; subst h; exact ⟨_, Ran.finish s _, .inl rfl⟩
      · split at h
        · obtain ⟨probes, left, st, e, h1, h2, -⟩ :=
            scanLoop_spec len.toNat (s.effAddr unit index offset) len.toNat s (Nat.le_refl _)
          rw [h1] at h
          injection h with h; subst h
          refine ⟨_, ⟨?_, ?_, rfl, rfl, rfl⟩, .inr ⟨probes, rfl⟩⟩
          · simp [State.finish, Traffic.events, List.flatMap_map, Piece.events]
            rfl
          · simp only [State.finish, Traffic.pieces]
            rw [flatten_singletons]
            exact ProbesFrom.env h2
        · simp at h
  · exact ⟨_, Ran.finish s _, .inl rfl⟩

/-- INIT's traffic (R180). -/
theorem execInit_ran {s t : State} (h : execInit s = .next t) : ∃ tr, Ran s t tr ∧ Emits .init tr := by
  unfold execInit at h
  split at h
  · injection h with h; subst h; exact ⟨_, Ran.finish s _, .inl rfl⟩
  · split at h
    · injection h with h; subst h; exact ⟨_, Ran.finish s _, .inl rfl⟩
    · obtain ⟨r, a, v1, v2, v3, n, hr⟩ := identify_ran h (by
        intro id u hk
        split at hk
        · injection hk with hk; subst hk
          exact ⟨rfl, rfl, rfl, [], [], [], [], 0, by simp [State.finish, laterPieces], rfl⟩
        · simp only at hk
          split at hk
          · injection hk with hk; subst hk
            obtain ⟨a, v1, v2, v3, h1, h2⟩ := complete_ran u (Config.blockCountFromId u.readUid.config id)
            exact ⟨by simp [State.complete_spec, State.readUid_spec],
              by simp [State.complete_spec, State.readUid_spec],
              by simp [State.complete_spec, State.readUid_spec], a, v1, v2, v3, 4, h1, h2⟩
          · injection hk with hk; subst hk
            refine ⟨by simp [State.finish, State.readUid_spec], by simp [State.finish, State.readUid_spec],
              rfl, (u.env.frame [0x4B, 0, 0, 0, 0] 8).1, [], [], [], 1, ?_, ?_⟩ <;>
              simp [State.finish, State.readUid_spec, laterPieces, Piece.events, Piece.run])
      exact ⟨_, hr, .inr ⟨r, a, v1, v2, v3, n, rfl⟩⟩

/-- INIT_NOID's traffic (R181). -/
theorem execInitNoid_ran {s t : State} {bc : Word} (h : execInitNoid bc s = .next t) :
    ∃ tr, Ran s t tr ∧ Emits (.initNoid bc) tr := by
  unfold execInitNoid at h
  split at h
  · injection h with h; subst h; exact ⟨_, Ran.finish s _, .inl rfl⟩
  · split at h
    · injection h with h; subst h; exact ⟨_, Ran.finish s _, .inl rfl⟩
    · split at h
      · injection h with h; subst h; exact ⟨_, Ran.finish s _, .inl rfl⟩
      · obtain ⟨r, a, v1, v2, v3, n, hr⟩ := identify_ran h (by
          intro id u hk
          injection hk with hk; subst hk
          obtain ⟨a, v1, v2, v3, h1, h2⟩ := complete_ran u bc.toNat
          exact ⟨by simp [State.complete_spec, State.readUid_spec],
            by simp [State.complete_spec, State.readUid_spec],
            by simp [State.complete_spec, State.readUid_spec], a, v1, v2, v3, 4, h1, h2⟩)
        exact ⟨_, hr, .inr ⟨r, a, v1, v2, v3, n, rfl⟩⟩

/-- ENTER_PD's traffic (R195). -/
theorem execEnterPd_ran {s t : State} (h : execEnterPd s = .next t) : ∃ tr, Ran s t tr ∧ Emits .enterPd tr := by
  refine gate_lock_ran h (.inl rfl) fun h => ?_
  split at h
  · injection h with h; subst h
    refine ⟨_, ⟨?_, ?_, ?_, ?_, rfl⟩, .inr (.inl rfl)⟩ <;>
      simp [State.takeLock_spec, State.dropLock_spec, State.finish, Traffic.events, Traffic.pieces, bracketed,
        unlockEvents]
  · simp only [Host.Outcome.next.injEq] at h
    split at h
    · subst h
      refine ⟨_, ⟨?_, ?_, ?_, ?_, rfl⟩, .inr (.inr rfl)⟩ <;>
        simp [State.takeLock_spec, State.cmdDpd, State.sendFrame_spec, State.dropLock_spec, State.finish,
          Traffic.events, Traffic.pieces, Piece.events, Piece.run, bracketed, unlockEvents]
    · subst h
      refine ⟨_, ⟨?_, ?_, ?_, ?_, rfl⟩, .inr (.inl rfl)⟩ <;>
        simp [State.takeLock_spec, State.dropLock_spec, State.finish, Traffic.events, Traffic.pieces, bracketed,
          unlockEvents]

/-- EXIT_PD's traffic (R196). -/
theorem execExitPd_ran {s t : State} (h : execExitPd s = .next t) : ∃ tr, Ran s t tr ∧ Emits .exitPd tr := by
  refine gate_lock_ran h (.inl rfl) fun h => ?_
  simp only [State.releasePd, Host.Outcome.next.injEq] at h
  split at h
  · subst h
    refine ⟨_, ⟨?_, ?_, ?_, ?_, rfl⟩, .inr (.inl rfl)⟩ <;>
      simp [State.takeLock_spec, State.dropLock_spec, State.finish, Traffic.events, Traffic.pieces, bracketed,
        unlockEvents]
  · split at h
    · subst h
      refine ⟨_, ⟨?_, ?_, ?_, ?_, rfl⟩, .inr (.inr rfl)⟩ <;>
        simp [State.takeLock_spec, State.cmdRdp, State.sendFrame_spec, State.dropLock_spec, State.finish,
          Traffic.events, Traffic.pieces, Piece.events, Piece.run, bracketed, unlockEvents]
    · subst h
      refine ⟨_, ⟨?_, ?_, ?_, ?_, rfl⟩, .inr (.inl rfl)⟩ <;>
        simp [State.takeLock_spec, State.dropLock_spec, State.finish, Traffic.events, Traffic.pieces, bracketed,
          unlockEvents]

/-- WAIT_BUSY's traffic (R207). -/
theorem execWaitBusy_ran {s t : State} {budget : Word} (h : execWaitBusy budget s = .next t) :
    ∃ tr, Ran s t tr ∧ Emits (.waitBusy budget) tr := by
  rcases gate_next h with ⟨_, h⟩ | ⟨_, rfl⟩
  · split at h
    · have h := (withLock_next h).2
      obtain ⟨d, b, l, st, rem, _, hw⟩ := wait_piece s.takeLock budget.toNat
      rw [endWait, hw] at h
      injection h with h; subst h
      refine ⟨_, ⟨?_, ?_, ?_, ?_, rfl⟩, .inr ⟨d, b ++ [l], rfl⟩⟩ <;>
        simp [State.takeLock_spec, State.dropLock_spec, State.finish, Traffic.events, Traffic.pieces,
          bracketed, unlockEvents]
    · injection h with h; subst h; exact ⟨_, Ran.finish s _, .inl rfl⟩
  · exact ⟨_, Ran.finish s _, .inl rfl⟩

/-- POLL's traffic (R136). -/
theorem execPoll_ran {s t : State} {budget : Word} (h : execPoll budget s = .next t) :
    ∃ tr, Ran s t tr ∧ Emits (.poll budget) tr := by
  unfold execPoll at h
  split at h
  · obtain ⟨d, b, l, st, rem, _, hw⟩ := wait_piece s budget.toNat
    rw [hw] at h
    injection h with h; subst h
    refine ⟨.plain [.poll d (b ++ [l])], ⟨?_, ?_, rfl, rfl, rfl⟩, .inr ⟨_, _, rfl⟩⟩ <;>
      simp [State.finish, Traffic.events, Traffic.pieces]
  · injection h with h; subst h; exact ⟨_, Ran.finish s _, .inl rfl⟩

/-- The traffic of the frames that receive. -/
theorem receiving_ran {i : Instr} {s t : State} {bytes : List Byte} {n : Nat} {r : Result}
    (h : (.next ((s.frame bytes n).2.finish r) : Out) = .next t) (he : ∀ rx, Emits i (.plain [.frame bytes rx])) :
    ∃ tr, Ran s t tr ∧ Emits i tr := by
  injection h with h
  exact ⟨_, Ran.frame bytes n r h.symm, he _⟩

/-- The traffic of the frames that receive nothing. -/
theorem sending_ran {i : Instr} {s t : State} {bytes : List Byte} {r : Result}
    (h : (.next ((s.sendFrame bytes).finish r) : Out) = .next t) (he : Emits i (.plain [.frame bytes []])) :
    ∃ tr, Ran s t tr ∧ Emits i tr := by
  injection h with h
  exact ⟨_, Ran.send bytes r h.symm, he⟩

/-- Every instruction that ends in a next state has the traffic `Emits` gives it, and leaves the configuration
and the host port alone. -/
theorem exec_ran (i : Instr) {s t : State} (h : exec i s = .next t) : ∃ tr, Ran s t tr ∧ Emits i tr := by
  cases i with
  | wren => exact sending_ran (bytes := [0x06]) h rfl
  | wrdi => exact sending_ran (bytes := [0x04]) h rfl
  | rdp => exact sending_ran (bytes := [0xAB]) h rfl
  | dpd => exact sending_ran (bytes := [0xB9]) h rfl
  | ce => exact sending_ran (bytes := [0xC7]) h rfl
  | se a => exact sending_ran (bytes := 0x20 :: addrBytes a) h rfl
  | be32 a => exact sending_ran (bytes := 0x52 :: addrBytes a) h rfl
  | be64 a => exact sending_ran (bytes := 0xD8 :: addrBytes a) h rfl
  | pp a p => exact sending_ran (bytes := 0x02 :: addrBytes a ++ p) h rfl
  | wrsr1 v => exact sending_ran (bytes := [0x01, v]) h rfl
  | wrsr2 v => exact sending_ran (bytes := [0x31, v]) h rfl
  | wrsr3 v => exact sending_ran (bytes := [0x11, v]) h rfl
  | rdid => exact receiving_ran (bytes := [0x9F]) (n := 3) h fun r => ⟨r, rfl⟩
  | ruid => exact receiving_ran (bytes := [0x4B, 0, 0, 0, 0]) (n := 8) h fun r => ⟨r, rfl⟩
  | fread a n => exact receiving_ran (bytes := 0x0B :: addrBytes a ++ [0]) (n := n) h fun r => ⟨r, rfl⟩
  | rdsr1 => exact receiving_ran (bytes := [0x05]) (n := 1) h fun r => ⟨r, rfl⟩
  | rdsr2 => exact receiving_ran (bytes := [0x35]) (n := 1) h fun r => ⟨r, rfl⟩
  | rdsr3 => exact receiving_ran (bytes := [0x15]) (n := 1) h fun r => ⟨r, rfl⟩
  | poll budget => exact execPoll_ran h
  | init => exact execInit_ran h
  | initNoid bc => exact execInitNoid_ran h
  | enterPd => exact execEnterPd_ran h
  | exitPd => exact execExitPd_ran h
  | read => exact execRead_ran h
  | write => exact execWrite_ran h
  | erase4k u i o =>
    exact eraseAt_ran (cmd := State.cmdSe) (ms := Params.tSe4kMs) (ea := fun s => s.effAddr u i o)
      (fun _ _ => rfl) h
  | erase32k u i o =>
    exact eraseAt_ran (cmd := State.cmdBe32) (ms := Params.tBe32kMs) (ea := fun s => s.effAddr u i o)
      (fun _ _ => rfl) h
  | erase64k u i o =>
    exact eraseAt_ran (cmd := State.cmdBe64) (ms := Params.tBe64kMs) (ea := fun s => s.effAddr u i o)
      (fun _ _ => rfl) h
  | eraseChip =>
    exact gate_mutating_ran (bytes := [0xC7]) none none
      (fun u => ⟨u.sr1, by simp [State.cmdCe, State.sendFrame_spec]⟩) h
  | isEmpty => exact execIsEmpty_ran h
  | rdSr1 =>
    refine gate_lock_ran h (.inl rfl) fun h => ?_
    simp only [State.cmdRdsr1_spec, Host.Outcome.next.injEq] at h
    refine ⟨_, Ran.locked [0x05] 1 _ h.symm ?_ ?_ ?_ ?_, .inr ⟨_, rfl⟩⟩ <;> simp [State.takeLock_spec]
  | rdSr2 =>
    refine gate_lock_ran h (.inl rfl) fun h => ?_
    simp only [State.cmdRdsr2_spec, Host.Outcome.next.injEq] at h
    refine ⟨_, Ran.locked [0x35] 1 _ h.symm ?_ ?_ ?_ ?_, .inr ⟨_, rfl⟩⟩ <;> simp [State.takeLock_spec]
  | rdSr3 =>
    refine gate_lock_ran h (.inl rfl) fun h => ?_
    simp only [State.cmdRdsr3_spec, Host.Outcome.next.injEq] at h
    refine ⟨_, Ran.locked [0x15] 1 _ h.symm ?_ ?_ ?_ ?_, .inr ⟨_, rfl⟩⟩ <;> simp [State.takeLock_spec]
  | wrSr1 v =>
    exact gate_mutating_ran (bytes := [0x01, v]) none none
      (fun u => ⟨v, by simp [State.cmdWrsr1, State.sendFrame_spec]⟩) h
  | wrSr2 v =>
    exact gate_mutating_ran (bytes := [0x31, v]) (some v) none
      (fun u => ⟨u.sr1, by simp [State.cmdWrsr2, State.sendFrame_spec]⟩) h
  | wrSr3 v =>
    exact gate_mutating_ran (bytes := [0x11, v]) none (some v)
      (fun u => ⟨u.sr1, by simp [State.cmdWrsr3, State.sendFrame_spec]⟩) h
  | writeEnable =>
    refine gate_lock_ran h (.inl rfl) fun h => ?_
    simp only [State.cmdWren, Host.Outcome.next.injEq] at h
    exact ⟨_, Ran.lockedSend [0x06] _ h.symm, .inr rfl⟩
  | writeDisable =>
    refine gate_lock_ran h (.inl rfl) fun h => ?_
    simp only [State.cmdWrdi, Host.Outcome.next.injEq] at h
    exact ⟨_, Ran.lockedSend [0x04] _ h.symm, .inr rfl⟩
  | waitBusy budget => exact execWaitBusy_ran h
  | rdJedec =>
    refine gate_lock_ran h (.inl rfl) fun h => ?_
    simp only [State.cmdRdid_spec, Host.Outcome.next.injEq] at h
    refine ⟨_, Ran.locked [0x9F] 3 _ h.symm ?_ ?_ ?_ ?_, .inr ⟨_, rfl⟩⟩ <;> simp [State.takeLock_spec]
  | rdUid =>
    refine gate_lock_ran h (.inl rfl) fun h => ?_
    simp only [State.cmdRuid_spec, Host.Outcome.next.injEq] at h
    refine ⟨_, Ran.locked [0x4B, 0, 0, 0, 0] 8 _ h.symm ?_ ?_ ?_ ?_, .inr ⟨_, rfl⟩⟩ <;>
      simp [State.takeLock_spec]
  | pageToSector => exact ⟨_, convert_ran h, rfl⟩
  | pageToBlock => exact ⟨_, convert_ran h, rfl⟩
  | sectorToBlock => exact ⟨_, convert_ran h, rfl⟩
  | sectorToPage => exact ⟨_, convert_ran h, rfl⟩
  | blockToPage => exact ⟨_, convert_ran h, rfl⟩
  | blockToSector => exact ⟨_, convert_ran h, rfl⟩
  | idManufacturer =>
    simp only [exec, execIdManufacturer, Host.Outcome.next.injEq] at h
    subst h; exact ⟨_, Ran.finish s _, rfl⟩
  | idModel =>
    simp only [exec, execIdModel, Host.Outcome.next.injEq] at h
    subst h; exact ⟨_, Ran.finish s _, rfl⟩
  | idBlockcount =>
    simp only [exec, execIdBlockcount, Host.Outcome.next.injEq] at h
    subst h; exact ⟨_, Ran.finish s _, rfl⟩

end Sys2Proof.Machine
end

