-- ==== Sys2Proof/Laws/PerInstr.lean ====
section
/-! SUPPORT. Per instruction: its encoding begins with the byte its row of spec/opcode_table.json gives it
(R84, R87). The bytes below are written out from the table, not taken from the encoder. -/

namespace Sys2Proof.Laws.EncodeOpcode

/-- The byte that selects an instruction in its space: a frame's first byte, or a command word's op_sel. -/
def selector : Request → Option Byte
  | .command w _ => some (CmdWord.opSel w)
  | .frame tx _ => tx.head?

/-- The "match" byte of an instruction's row of the opcode table. -/
def tableByte : Instr → Byte
  | .wren => 0x06
  | .wrdi => 0x04
  | .rdp => 0xAB
  | .dpd => 0xB9
  | .rdid => 0x9F
  | .ruid => 0x4B
  | .fread _ _ => 0x0B
  | .pp _ _ => 0x02
  | .se _ => 0x20
  | .be32 _ => 0x52
  | .be64 _ => 0xD8
  | .ce => 0xC7
  | .rdsr1 => 0x05
  | .rdsr2 => 0x35
  | .rdsr3 => 0x15
  | .wrsr1 _ => 0x01
  | .wrsr2 _ => 0x31
  | .wrsr3 _ => 0x11
  | .poll _ => 0x05
  | .init => 0x00
  | .initNoid _ => 0x01
  | .enterPd => 0x02
  | .exitPd => 0x03
  | .read _ _ _ _ => 0x04
  | .write _ _ _ _ _ => 0x05
  | .erase4k _ _ _ => 0x06
  | .erase32k _ _ _ => 0x07
  | .erase64k _ _ _ => 0x08
  | .eraseChip => 0x09
  | .isEmpty _ _ _ _ => 0x0A
  | .rdSr1 => 0x0B
  | .rdSr2 => 0x0C
  | .rdSr3 => 0x0D
  | .wrSr1 _ => 0x0E
  | .wrSr2 _ => 0x0F
  | .wrSr3 _ => 0x10
  | .writeEnable => 0x11
  | .writeDisable => 0x12
  | .waitBusy _ => 0x13
  | .rdJedec => 0x14
  | .rdUid => 0x15
  | .pageToSector _ => 0x20
  | .pageToBlock _ => 0x21
  | .sectorToBlock _ => 0x22
  | .sectorToPage _ => 0x23
  | .blockToPage _ => 0x24
  | .blockToSector _ => 0x25
  | .idManufacturer _ => 0x28
  | .idModel _ => 0x29
  | .idBlockcount _ => 0x2A

/-- The instruction's encoding is selected by its row's byte. -/
def Statement (i : Instr) : Prop := selector (encode i) = some (tableByte i)

/-- A command word's op_sel is the byte it was built from (Table R86). -/
theorem selector_command (op : Byte) (unit : AddrUnit) (index offset len arg : Word) (data : List Byte) :
    selector (.command (commandWord op unit index offset len arg) data) = some op := by
  simp only [selector, CmdWord.opSel, commandWord, Option.some.injEq]
  apply BitVec.eq_of_getLsbD_eq
  intro k hk
  simp only [BitVec.getLsbD_extractLsb', BitVec.getLsbD_append, hk, decide_true, Bool.true_and]
  simp [hk]

theorem wren : Statement .wren := rfl
theorem wrdi : Statement .wrdi := rfl
theorem rdp : Statement .rdp := rfl
theorem dpd : Statement .dpd := rfl
theorem rdid : Statement .rdid := rfl
theorem ruid : Statement .ruid := rfl
theorem fread (addr : Addr) (count : Nat) : Statement (.fread addr count) := rfl
theorem pp (addr : Addr) (payload : List Byte) : Statement (.pp addr payload) := rfl
theorem se (addr : Addr) : Statement (.se addr) := rfl
theorem be32 (addr : Addr) : Statement (.be32 addr) := rfl
theorem be64 (addr : Addr) : Statement (.be64 addr) := rfl
theorem ce : Statement .ce := rfl
theorem rdsr1 : Statement .rdsr1 := rfl
theorem rdsr2 : Statement .rdsr2 := rfl
theorem rdsr3 : Statement .rdsr3 := rfl
theorem wrsr1 (v : Byte) : Statement (.wrsr1 v) := rfl
theorem wrsr2 (v : Byte) : Statement (.wrsr2 v) := rfl
theorem wrsr3 (v : Byte) : Statement (.wrsr3 v) := rfl
theorem poll (budget : Word) : Statement (.poll budget) := rfl
theorem init : Statement .init := selector_command ..
theorem initNoid (blockCount : Word) : Statement (.initNoid blockCount) := selector_command ..
theorem enterPd : Statement .enterPd := selector_command ..
theorem exitPd : Statement .exitPd := selector_command ..
theorem read (unit : AddrUnit) (index offset len : Word) : Statement (.read unit index offset len) :=
    selector_command ..
theorem write (unit : AddrUnit) (index offset len : Word) (data : List Byte) :
    Statement (.write unit index offset len data) :=
    selector_command ..
theorem erase4k (unit : AddrUnit) (index offset : Word) : Statement (.erase4k unit index offset) :=
    selector_command ..
theorem erase32k (unit : AddrUnit) (index offset : Word) : Statement (.erase32k unit index offset) :=
    selector_command ..
theorem erase64k (unit : AddrUnit) (index offset : Word) : Statement (.erase64k unit index offset) :=
    selector_command ..
theorem eraseChip : Statement .eraseChip := selector_command ..
theorem isEmpty (unit : AddrUnit) (index offset len : Word) : Statement (.isEmpty unit index offset len) :=
    selector_command ..
theorem rdSr1 : Statement .rdSr1 := selector_command ..
theorem rdSr2 : Statement .rdSr2 := selector_command ..
theorem rdSr3 : Statement .rdSr3 := selector_command ..
theorem wrSr1 (v : Byte) : Statement (.wrSr1 v) := selector_command ..
theorem wrSr2 (v : Byte) : Statement (.wrSr2 v) := selector_command ..
theorem wrSr3 (v : Byte) : Statement (.wrSr3 v) := selector_command ..
theorem writeEnable : Statement .writeEnable := selector_command ..
theorem writeDisable : Statement .writeDisable := selector_command ..
theorem waitBusy (budget : Word) : Statement (.waitBusy budget) := selector_command ..
theorem rdJedec : Statement .rdJedec := selector_command ..
theorem rdUid : Statement .rdUid := selector_command ..
theorem pageToSector (index : Word) : Statement (.pageToSector index) := selector_command ..
theorem pageToBlock (index : Word) : Statement (.pageToBlock index) := selector_command ..
theorem sectorToBlock (index : Word) : Statement (.sectorToBlock index) := selector_command ..
theorem sectorToPage (index : Word) : Statement (.sectorToPage index) := selector_command ..
theorem blockToPage (index : Word) : Statement (.blockToPage index) := selector_command ..
theorem blockToSector (index : Word) : Statement (.blockToSector index) := selector_command ..
theorem idManufacturer (id : JedecId) : Statement (.idManufacturer id) := selector_command ..
theorem idModel (id : JedecId) : Statement (.idModel id) := selector_command ..
theorem idBlockcount (id : JedecId) : Statement (.idBlockcount id) := selector_command ..

end Sys2Proof.Laws.EncodeOpcode
end

