-- ==== Sys2Proof/Laws/Traces.lean ====
section
/-! SUPPORT. What the frames and the received bytes of a trace are (R11, R117, R136), and the arithmetic of the
chunks and probes that ChunksFrom and ProbesFrom speak of (R224, R266). -/

namespace Sys2Proof.Safety

open Sys2Proof.Machine

theorem busyFlag_eq (v : Byte) : busyFlag v = v.getLsbD 0 := rfl

/-! ### Frames and received bytes of a trace -/

@[simp] theorem txFrames_append (a b : List Event) : txFrames (a ++ b) = txFrames a ++ txFrames b := by
  induction a with
  | nil => rfl
  | cons x a ih => cases x <;> simp [txFrames, ih]

@[simp] theorem rxData_append (a b : List Event) : rxData (a ++ b) = rxData a ++ rxData b := by
  induction a with
  | nil => rfl
  | cons x a ih => cases x <;> simp [rxData, ih]

@[simp] theorem txFrames_frameEvents (bytes received : List Byte) :
    txFrames (frameEvents bytes received) = [bytes] := by
  unfold frameEvents; split <;> rfl

@[simp] theorem rxData_frameEvents (bytes received : List Byte) :
    rxData (frameEvents bytes received) = if received = [] then [] else [received] := by
  unfold frameEvents; split <;> rfl

@[simp] theorem txFrames_pollEvents (dummy : Byte) (polls : List Byte) :
    txFrames (pollEvents dummy polls) = [[0x05]] := by
  have : txFrames (polls.flatMap fun b => [Event.rx [b], .delay 100]) = [] := by
    induction polls with
    | nil => rfl
    | cons p rest ih => simpa [txFrames] using ih
  simp [pollEvents, txFrames, this]

@[simp] theorem txFrames_bracketed (s : State) (body : List Event) :
    txFrames (bracketed s body) = txFrames body := by
  simp only [bracketed, lockEvents, unlockEvents, txFrames_append]
  split <;> split <;> simp [txFrames]

@[simp] theorem rxData_bracketed (s : State) (body : List Event) :
    rxData (bracketed s body) = rxData body := by
  simp only [bracketed, lockEvents, unlockEvents, rxData_append]
  split <;> split <;> simp [rxData]

theorem txFrames_chunks (runs : List ChunkRun) :
    txFrames (runs.flatMap chunkEvents) = runs.flatMap fun c => [[0x06], c.frame, [0x05]] := by
  induction runs with
  | nil => rfl
  | cons c rest ih => simp [chunkEvents, ih]

theorem txFrames_probes (s : State) (probes : List ProbeRun) :
    txFrames (probes.flatMap (probeEvents s)) = probes.map ProbeRun.frame := by
  induction probes with
  | nil => rfl
  | cons p rest ih => simp [probeEvents, ih]

theorem rxData_probes (s : State) (probes : List ProbeRun) (h : ∀ p ∈ probes, p.received ≠ []) :
    rxData (probes.flatMap (probeEvents s)) = probes.map ProbeRun.received := by
  induction probes with
  | nil => rfl
  | cons p rest ih =>
    simp [probeEvents, ih fun q hq => h q (List.mem_cons_of_mem _ hq), h p List.mem_cons_self]

/-! ### Chunks -/

theorem ChunksFrom.of_nil {page : Nat} {e e' : Environment} {a : Nat} {runs : List ChunkRun}
    {left : List Byte} (h : ChunksFrom page e a [] runs left e') : runs = [] := by
  cases runs with
  | nil => rfl
  | cons c rest => exact absurd rfl h.1

/-- What a chunk carries and what it leaves, together, are the data (R223). -/
theorem ChunksFrom.payloads {page : Nat} {e e' : Environment} {a : Nat} {data left : List Byte}
    {runs : List ChunkRun} (h : ChunksFrom page e a data runs left e') :
    runs.flatMap ChunkRun.payload ++ left = data := by
  induction runs generalizing e a data with
  | nil => obtain ⟨rfl, -⟩ := h; rfl
  | cons c rest ih =>
    obtain ⟨-, -, h3, -, h5⟩ := h
    have hc : c.payload = data.take c.payload.length := by
      conv_lhs => rw [h3]
      rw [h3, List.length_take]
      rcases Nat.le_total (page - a % page) data.length with hh | hh
      · rw [Nat.min_eq_left hh]
      · rw [Nat.min_eq_right hh, List.take_length, List.take_of_length_le hh]
    rw [List.flatMap_cons, List.append_assoc, ih h5]
    conv_lhs => arg 1; rw [hc]
    exact List.take_append_drop ..

/-- Each chunk starts where the one before it ended (R224). -/
theorem ChunksFrom.addr {page : Nat} {e e' : Environment} {a : Nat} {data left : List Byte}
    {runs : List ChunkRun} (h : ChunksFrom page e a data runs left e') (k : Nat) (hk : k < runs.length) :
    (runs[k]'hk).addr = a + ((runs.take k).flatMap ChunkRun.payload).length := by
  induction runs generalizing e a data k with
  | nil => simp at hk
  | cons c rest ih =>
    obtain ⟨-, h2, -, -, h5⟩ := h
    cases k with
    | zero => simp [h2]
    | succ k =>
      simp only [List.getElem_cons_succ, List.take_succ_cons, List.flatMap_cons, List.length_append]
      rw [ih h5]; omega

/-- Each chunk has a byte and crosses no page boundary, and each but the first starts on one (R56, R224). -/
theorem ChunksFrom.inPage {e e' : Environment} {a : Nat} {data left : List Byte}
    {runs : List ChunkRun} (h : ChunksFrom 256 e a data runs left e') :
    (∀ c ∈ runs, 1 ≤ c.payload.length ∧ c.addr % 256 + c.payload.length ≤ 256) ∧
      ∀ c ∈ runs.tail, c.addr % 256 = 0 := by
  induction runs generalizing e a data with
  | nil => simp
  | cons c rest ih =>
    obtain ⟨h1, h2, h3, -, h5⟩ := h
    obtain ⟨i1, i2⟩ := ih h5
    have hl : 0 < data.length := List.length_pos_iff.2 h1
    have hplen : c.payload.length = min (256 - a % 256) data.length := by rw [h3]; simp
    refine ⟨?_, ?_⟩
    · intro x hx
      rcases List.mem_cons.1 hx with rfl | hx
      · omega
      · exact i1 x hx
    · intro x hx
      cases rest with
      | nil => simp at hx
      | cons y ys =>
        have hd : data.length - c.payload.length ≠ 0 := fun hz =>
          h5.1 (List.length_eq_zero_iff.1 (by simpa using hz))
        rcases List.mem_cons.1 hx with rfl | hx
        · rw [h5.2.1]; omega
        · exact i2 x hx

/-- Chunks that carry all of some data are as many as the pages it touches (R224). -/
theorem ChunksFrom.count {e e' : Environment} {a : Nat} {data : List Byte} {runs : List ChunkRun}
    (h : ChunksFrom 256 e a data runs [] e') (hd : data ≠ []) :
    runs.length = (a % 256 + data.length + 255) / 256 := by
  induction runs generalizing e a data with
  | nil => exact absurd h.1.symm hd
  | cons c rest ih =>
    obtain ⟨h1, h2, h3, -, h5⟩ := h
    have hl : 0 < data.length := List.length_pos_iff.2 h1
    have hplen : c.payload.length = min (256 - a % 256) data.length := by rw [h3]; simp
    by_cases hz : data.drop c.payload.length = []
    · have hrest : rest = [] := ChunksFrom.of_nil (hz ▸ h5)
      have : data.length - c.payload.length = 0 := by simpa using congrArg List.length hz
      subst hrest
      simp only [List.length_singleton]
      omega
    · have hne : data.length - c.payload.length ≠ 0 := fun h0 =>
        hz (List.length_eq_zero_iff.1 (by simpa using h0))
      simp only [List.length_cons, ih h5 hz, List.length_drop]
      omega

/-! ### Probes -/

/-- Probe `k` starts `k` probe sizes on, and receives a probe size or what is left (R265). -/
theorem ProbesFrom.nth {size : Nat} {e e' : Environment} {a rem left : Nat} {probes : List ProbeRun}
    (h : ProbesFrom size e a rem probes left e') (k : Nat) (hk : k < probes.length) :
    (probes[k]'hk).addr = a + k * size ∧ (probes[k]'hk).received.length = min size (rem - k * size) ∧
      k * size < rem := by
  induction probes generalizing e a rem k with
  | nil => simp at hk
  | cons p rest ih =>
    obtain ⟨h1, h2, h3, h4⟩ := h
    cases k with
    | zero => simp [h2, h3, h1]
    | succ k =>
      obtain ⟨i1, i2, i3⟩ := ih h4 k (by simpa using hk)
      have hm : min size rem = size := by omega
      rw [hm] at i1 i2 i3
      simp only [List.getElem_cons_succ, i1, i2, Nat.add_mul, Nat.one_mul]
      omega

/-- Probes that leave nothing are as many as the probe size goes into the length, rounded up (R265). -/
theorem ProbesFrom.count {size : Nat} {e e' : Environment} {a rem : Nat} {probes : List ProbeRun}
    (h : ProbesFrom size e a rem probes 0 e') (hs : 0 < size) : probes.length = (rem + size - 1) / size := by
  induction probes generalizing e a rem with
  | nil => obtain ⟨rfl, -⟩ := h; exact (Nat.div_eq_of_lt (by omega)).symm
  | cons p rest ih =>
    obtain ⟨h1, -, -, h4⟩ := h
    rw [List.length_cons, ih h4]
    rcases Nat.le_total rem size with hh | hh
    · rw [Nat.min_eq_right hh, Nat.div_eq_of_lt (by omega)]
      exact (Nat.div_eq_of_lt_le (by omega) (by omega)).symm
    · rw [Nat.min_eq_left hh, show rem + size - 1 = (rem - size + size - 1) + size by omega,
        Nat.add_div_right _ hs]

/-- The probes before the last receive a whole probe size each (R265). -/
theorem ProbesFrom.init_length {size : Nat} {e e' : Environment} {a rem left : Nat} {init : List ProbeRun}
    {p : ProbeRun} (h : ProbesFrom size e a rem (init ++ [p]) left e') :
    (init.flatMap ProbeRun.received).length = init.length * size ∧ p.received.length ≤ size := by
  induction init generalizing e a rem with
  | nil => obtain ⟨-, -, h3, -⟩ := h; simp [h3]
  | cons q rest ih =>
    obtain ⟨i1, i2⟩ := ih h.2.2.2
    have hn := ProbesFrom.nth h 0 (by simp)
    have h1 := (ProbesFrom.nth h 1 (by simp)).2.2
    simp only [List.cons_append, List.getElem_cons_zero] at hn
    refine ⟨?_, i2⟩
    simp only [List.flatMap_cons, List.length_append, i1, List.length_cons, Nat.add_mul, hn.2.1]
    omega

end Sys2Proof.Safety
end

