-- ==== Sys2Proof/Tests/Slice0.lean ====
section
/-! SUPPORT. The model's own tests: what WellFormed refuses, words written out from the spec's encodings, the
spec's test vectors (spec/95_test_vectors.md, cited by their names there), and for every statement with
hypotheses a concrete case that meets them. -/

namespace Sys2Proof.Tests

open Sys2Proof.Machine Sys2Proof.Safety

/-! ### WellFormed -/

/-- A fast read receives at least one byte (R113). -/
theorem test_wellFormed_fread_empty : Instr.wellFormed (.fread 0x001000 0) = false := by decide

/-- A page program carries at least one byte (R125). -/
theorem test_wellFormed_pp_empty : Instr.wellFormed (.pp 0x000100 []) = false := by decide

/-- A page program does not cross its page (R56, R125). -/
theorem test_wellFormed_pp_crossing : Instr.wellFormed (.pp 0x0000FF [1, 2]) = false := by decide

/-- The largest budget that fits the counter, and the next (U4; V66 has the first). -/
theorem test_wellFormed_poll : Instr.wellFormed (.poll 4294967) = true ∧
    Instr.wellFormed (.poll 4294968) = false := by decide

/-- A well-formed term of each kind that has a check. -/
theorem test_wellFormed_accepts : Instr.wellFormed (.fread 0xFFFFFF 1) = true ∧
    Instr.wellFormed (.pp 0x0000FF [0x5A]) = true ∧ Instr.wellFormed (.read .byte 0 0 0) = true := by decide

/-- The decoder refuses what WellFormed refuses, by name. -/
theorem test_decode_refuses_illFormed :
    decode (.frame [0x0B, 0x00, 0x10, 0x00, 0x00] (.bytes 0)) = .error .badFrame ∧
      decode (.frame [0x02, 0x00, 0x00, 0xFF, 0x01, 0x02] .none) = .error .badFrame ∧
      decode (.frame [0x05] (.polls 4294968)) = .error .badFrame := by decide

/-! ### Words written out from the encodings -/

/-- Frames of one opcode and of one opcode and a byte (Tables R81, R84). -/
theorem test_decode_frames_short :
    decode (.frame [0x06] .none) = .ok .wren ∧ decode (.frame [0x04] .none) = .ok .wrdi ∧
      decode (.frame [0xAB] .none) = .ok .rdp ∧ decode (.frame [0xB9] .none) = .ok .dpd ∧
      decode (.frame [0xC7] .none) = .ok .ce ∧ decode (.frame [0x01, 0x02] .none) = .ok (.wrsr1 0x02) ∧
      decode (.frame [0x31, 0x02] .none) = .ok (.wrsr2 0x02) ∧
      decode (.frame [0x11, 0x60] .none) = .ok (.wrsr3 0x60) := by decide

/-- Frames with an address, its bytes most significant first (R52, R82; F9 to F13 of the test vectors). -/
theorem test_decode_frames_address :
    decode (.frame [0x20, 0x00, 0x20, 0x00] .none) = .ok (.se 0x002000) ∧
      decode (.frame [0x52, 0x00, 0x80, 0x00] .none) = .ok (.be32 0x008000) ∧
      decode (.frame [0xD8, 0x03, 0x00, 0x00] .none) = .ok (.be64 0x030000) ∧
      decode (.frame [0x02, 0x00, 0x00, 0xFF, 0x5A] .none) = .ok (.pp 0x0000FF [0x5A]) ∧
      decode (.frame [0x0B, 0x00, 0x03, 0x08, 0x00] (.bytes 4)) = .ok (.fread 0x000308 4) := by decide

/-- Frames that receive (Table R81; F5, F6, F15 to F17, F21). -/
theorem test_decode_frames_received :
    decode (.frame [0x9F] (.bytes 3)) = .ok .rdid ∧
      decode (.frame [0x4B, 0x00, 0x00, 0x00, 0x00] (.bytes 8)) = .ok .ruid ∧
      decode (.frame [0x05] (.bytes 1)) = .ok .rdsr1 ∧ decode (.frame [0x35] (.bytes 1)) = .ok .rdsr2 ∧
      decode (.frame [0x15] (.bytes 1)) = .ok .rdsr3 ∧
      decode (.frame [0x05] (.polls 500)) = .ok (.poll 500) := by decide

/-- A first byte that is no opcode, and shapes that are not their opcode's (R85, Table R81). -/
theorem test_decode_frames_refused :
    decode (.frame [0x9E] (.bytes 3)) = .error (.unknownOpcode 0x9E) ∧
      decode (.frame [] .none) = .error .badFrame ∧
      decode (.frame [0x9F] (.bytes 2)) = .error .badFrame ∧
      decode (.frame [0x20, 0x00, 0x20] .none) = .error .badFrame ∧
      decode (.frame [0x0B, 0x00, 0x10, 0x00, 0x01] (.bytes 4)) = .error .badFrame := by decide

/-- Command words (Tables R86, R87; the words of V22, V37, V44, V46, V70, V84). -/
theorem test_decode_commands_path :
    decode (.command 0x00000000_00000000_00000000_00000000_0000 []) = .ok .init ∧
      decode (.command 0x00000040_00000000_00000000_00000000_0001 []) = .ok (.initNoid 64) ∧
      decode (.command 0x00000000_00000000_00000000_00000000_0002 []) = .ok .enterPd ∧
      decode (.command 0x00000000_00000000_00000000_00000000_0003 []) = .ok .exitPd ∧
      decode (.command 0x00000000_00000004_00000008_00000003_0104 []) = .ok (.read .page 3 8 4) ∧
      decode (.command 0x00000000_00000001_00000000_00000000_0005 [0x5A]) =
        .ok (.write .byte 0 0 1 [0x5A]) ∧
      decode (.command 0x00000000_00000041_00000000_00002000_000A []) =
        .ok (.isEmpty .byte 0x2000 0 65) := by decide

/-- Command words of the erases, the status registers and the waits (V102, V109, V112, V115, V118 to V124,
V67, V68, V54). -/
theorem test_decode_commands_chip :
    decode (.command 0x00000000_00000000_00000000_00000002_0206 []) = .ok (.erase4k .sector 2 0) ∧
      decode (.command 0x00000000_00000000_00000000_00008000_0007 []) = .ok (.erase32k .byte 0x8000 0) ∧
      decode (.command 0x00000000_00000000_00000000_00000003_0308 []) = .ok (.erase64k .block 3 0) ∧
      decode (.command 0x00000000_00000000_00000000_FFFFFFFF_0009 []) = .ok .eraseChip ∧
      decode (.command 0x00000000_00000000_00000000_00000000_000B []) = .ok .rdSr1 ∧
      decode (.command 0x00000000_00000000_00000000_00000000_000C []) = .ok .rdSr2 ∧
      decode (.command 0x00000000_00000000_00000000_00000000_000D []) = .ok .rdSr3 ∧
      decode (.command 0x000001FF_00000000_00000000_00000000_000E []) = .ok (.wrSr1 0xFF) ∧
      decode (.command 0x0000000A_00000000_00000000_00000000_000F []) = .ok (.wrSr2 0x0A) ∧
      decode (.command 0x00000060_00000000_00000000_00000000_0010 []) = .ok (.wrSr3 0x60) ∧
      decode (.command 0x00000000_00000000_00000000_00000000_0011 []) = .ok .writeEnable ∧
      decode (.command 0x00000000_00000000_00000000_00000000_0012 []) = .ok .writeDisable ∧
      decode (.command 0x000001F4_00000000_00000000_00000000_0013 []) = .ok (.waitBusy 500) := by decide

/-- Command words of the id reads, the translator and the id decoders (V99, V101, the table of section 2.3,
V5, V6, V11). -/
theorem test_decode_commands_values :
    decode (.command 0x00000000_00000000_00000000_00000000_0014 []) = .ok .rdJedec ∧
      decode (.command 0x00000000_00000000_00000000_00000000_0015 []) = .ok .rdUid ∧
      decode (.command 0x00000009_00000009_00000009_00000025_0320 []) = .ok (.pageToSector 37) ∧
      decode (.command 0x00000000_00000000_00000000_000003E8_0021 []) = .ok (.pageToBlock 1000) ∧
      decode (.command 0x00000000_00000000_00000000_00000021_0022 []) = .ok (.sectorToBlock 33) ∧
      decode (.command 0x00000000_00000000_00000000_10000000_0023 []) = .ok (.sectorToPage 0x10000000) ∧
      decode (.command 0x00000000_00000000_00000000_00000003_0024 []) = .ok (.blockToPage 3) ∧
      decode (.command 0x00000000_00000000_00000000_0000003F_0025 []) = .ok (.blockToSector 63) ∧
      decode (.command 0xAB1740EF_00000000_00000000_00000000_0028 []) = .ok (.idManufacturer 0x1740EF) ∧
      decode (.command 0x001740EF_00000000_00000000_00000000_0029 []) = .ok (.idModel 0x1740EF) ∧
      decode (.command 0x002140EF_00000000_00000000_00000000_002A []) = .ok (.idBlockcount 0x2140EF) := by
  decide

/-- Bits 15:10 of the command word are ignored (V150). -/
theorem test_decode_command_unused_bits :
    decode (.command 0x00000000_00000002_00000000_00000010_FC04 []) = .ok (.read .byte 0x10 0 2) := by decide

/-- The reserved op_sel values have no instruction (R87, R90; V148, V149). -/
theorem test_decode_reserved :
    decode (.command 0x00000000_00000000_00000000_FFFFFFFF_0316 []) = .error (.reservedOpSel 0x16) ∧
      decode (.command 0x00000000_00000000_00000000_00000000_001F []) = .error (.reservedOpSel 0x1F) ∧
      decode (.command 0x00000000_00000000_00000000_00000000_0026 []) = .error (.reservedOpSel 0x26) ∧
      decode (.command 0x00000000_00000000_00000000_00000000_0027 []) = .error (.reservedOpSel 0x27) ∧
      decode (.command 0x00000000_00000000_00000000_00000000_002B []) = .error (.reservedOpSel 0x2B) ∧
      decode (.command 0x00000000_00000000_00000000_00000000_00FF []) = .error (.reservedOpSel 0xFF) := by
  decide

/-- The opcode table's words: a frame opcode that is no op_sel, an op_sel, and one that is both. -/
theorem test_decodeTableWord :
    decodeTableWord 8 0xAB = some .rdp ∧ decodeTableWord 8 0x28 = some (.idManufacturer 0) ∧
      decodeTableWord 8 0x0B = some .rdSr1 ∧ decodeTableWord 8 0x16 = none := by decide

/-! ### One step on a small state -/

/-- I64 of the test vectors' section 0: the state a successful INIT leaves under REFCFG. -/
def i64 : State := { State.reset with
  pageSize := 256
  sectorSize := 4096
  blockSize := 65536
  blockCount := 64
  sectorCount := 1024
  pageCount := 16384
  totalSize := 4194304
  jedecId := 0x1740EF
  uniqueId := 0xD1D2D3D4D5D6D7D8
  manufacturer := .member 0
  model := .member 0
  initialized := true
  sr2 := 0x02
  sr3 := 0x60 }

/-- A state with the answers of a scripted oracle. -/
def answering (s : State) (script : List Byte) : State := { s with env := { s.env with script := script } }

/-- A state with a request presented. -/
def presenting (s : State) (r : Request) : State := { s with port := [.issue r] }

/-- A field of the next state of one step; none where the step stops. -/
def after {α : Type} (f : State → α) (s : State) (r : Request) : Option α :=
  match step (presenting s r) with
  | .next t => some (f t)
  | .fault _ => none
  | .refused _ => none

/-- What a test vector shows first: the status and the trace. -/
def shown (s : State) (script : List Byte) (r : Request) : Option (Nat × List Event) :=
  after (fun t => (t.result.status.code, t.trace)) (answering s script) r

/-- Status, remaining milliseconds and S.sr1 of an operation that waits. -/
def waited (s : State) (script : List Byte) (r : Request) : Option (Nat × Nat × Byte) :=
  after (fun t => (t.result.status.code, t.result.remainingMs, t.sr1)) (answering s script) r

/-- Status and value. -/
def valued (s : State) (script : List Byte) (r : Request) : Option (Nat × Nat) :=
  after (fun t => (t.result.status.code, t.result.value.toNat)) (answering s script) r

/-- A command word with no data. -/
def cmd (w : CmdWord) : Request := .command w []

/-- A frame as the test vectors write it: what goes out and what comes back. -/
def fr (tx rx : List Byte) : List Event :=
  [.csLow, .tx tx] ++ (if rx = [] then [] else [.rx rx]) ++ [.csHigh]

/-- A polling frame as the test vectors write it: the dummy byte and the polls. -/
def pf (dummy : Byte) (polls : List Byte) : List Event :=
  [.csLow, .tx [0x05], .rx [dummy]] ++ polls.flatMap (fun b => [Event.rx [b], .delay 100]) ++ [.csHigh]

/-- F1 to F4, F14: WREN, WRDI, RDP, DPD, CE. -/
theorem test_frames_sent_F1_F4 :
    shown State.reset [] (.frame [0x06] .none) = some (0, fr [0x06] []) ∧
    shown State.reset [] (.frame [0x04] .none) = some (0, fr [0x04] []) ∧
    shown State.reset [] (.frame [0xAB] .none) = some (0, fr [0xAB] []) ∧
    shown State.reset [] (.frame [0xB9] .none) = some (0, fr [0xB9] []) ∧
    shown State.reset [] (.frame [0xC7] .none) = some (0, fr [0xC7] []) := by
  decide

/-- F5: the first byte received is id bits 7:0. -/
theorem test_frame_RDID_F5 :
    valued State.reset [0xEF, 0x40, 0x17] (.frame [0x9F] (.bytes 3)) = some (0, 0x1740EF) := by
  decide

/-- F6: the first byte received is uid bits 63:56. -/
theorem test_frame_RUID_F6 :
    valued State.reset [1, 2, 3, 4, 5, 6, 7, 8] (.frame [0x4B, 0, 0, 0, 0] (.bytes 8)) =
    some (0, 0x0102030405060708) := by
  decide

/-- F7: FREAD's events and bytes. -/
theorem test_frame_FREAD_F7 :
    shown State.reset [0xA0, 0xA1, 0xA2, 0xA3] (.frame [0x0B, 0x00, 0x03, 0x08, 0x00] (.bytes 4)) =
      some (0, fr [0x0B, 0x00, 0x03, 0x08, 0x00] [0xA0, 0xA1, 0xA2, 0xA3]) ∧
    after (fun t => t.result.data) (answering State.reset [0xFF])
      (.frame [0x0B, 0xFF, 0xFF, 0xFF, 0x00] (.bytes 1)) = some [0xFF] := by
  decide

/-- F9, F11 to F13, F18 to F20: PP, the erases and the status-register writes. -/
theorem test_frames_written_F9_F20 :
    shown State.reset [] (.frame [0x02, 0x00, 0x00, 0xFF, 0x5A] .none) =
      some (0, fr [0x02, 0x00, 0x00, 0xFF, 0x5A] []) ∧
    shown State.reset [] (.frame [0x20, 0x00, 0x20, 0x00] .none) = some (0, fr [0x20, 0x00, 0x20, 0x00] []) ∧
    shown State.reset [] (.frame [0x52, 0x00, 0x80, 0x00] .none) = some (0, fr [0x52, 0x00, 0x80, 0x00] []) ∧
    shown State.reset [] (.frame [0xD8, 0x03, 0x00, 0x00] .none) = some (0, fr [0xD8, 0x03, 0x00, 0x00] []) ∧
    shown State.reset [] (.frame [0x01, 0x02] .none) = some (0, fr [0x01, 0x02] []) ∧
    shown State.reset [] (.frame [0x31, 0x02] .none) = some (0, fr [0x31, 0x02] []) ∧
    shown State.reset [] (.frame [0x11, 0x60] .none) = some (0, fr [0x11, 0x60] []) := by
  decide

/-- F15 to F17: the status reads return the byte and write no cache slot. -/
theorem test_frames_status_F15_F17 :
    valued State.reset [0x02] (.frame [0x05] (.bytes 1)) = some (0, 0x02) ∧
    valued State.reset [0x02] (.frame [0x35] (.bytes 1)) = some (0, 0x02) ∧
    valued State.reset [0x60] (.frame [0x15] (.bytes 1)) = some (0, 0x60) ∧
    after (fun t => (t.sr1, t.sr2, t.sr3)) (answering State.reset [0x02]) (.frame [0x05] (.bytes 1)) =
      some (0, 0, 0) := by
  decide

/-- F21: the polling frame with budget 500. -/
theorem test_frame_POLL_F21 :
    shown State.reset [0xAA, 0x03, 0x03, 0x00] (.frame [0x05] (.polls 500)) =
      some (0, pf 0xAA [0x03, 0x03, 0x00]) ∧
    waited State.reset [0xAA, 0x03, 0x03, 0x00] (.frame [0x05] (.polls 500)) = some (0, 499, 0x00) := by
  decide

/-- V1, V2: known and unknown manufacturer, before INIT. -/
theorem test_ID_MANUFACTURER_V1_V2 :
    valued State.reset [] (cmd 0x001740EF_00000000_00000000_00000000_0028) = some (0, 1) ∧
    valued State.reset [] (cmd 0x001740C2_00000000_00000000_00000000_0028) = some (0, 0) := by
  decide

/-- V6, V8: both bytes of the code take part. -/
theorem test_ID_MODEL_V6_V8 :
    valued State.reset [] (cmd 0x001740EF_00000000_00000000_00000000_0029) = some (0, 1) ∧
    valued State.reset [] (cmd 0x001741EF_00000000_00000000_00000000_0029) = some (0, 0) := by
  decide

/-- V11, V12 (the source's example S2), V13. -/
theorem test_ID_BLOCKCOUNT_V11_V12 :
    valued State.reset [] (cmd 0x001740EF_00000000_00000000_00000000_002A) = some (0, 64) ∧
    valued State.reset [] (cmd 0x001240EF_00000000_00000000_00000000_002A) = some (0, 2) ∧
    valued State.reset [] (cmd 0x001140EF_00000000_00000000_00000000_002A) = some (0, 0) := by
  decide

/-- V16, V17: the largest count, and the first that does not fit. -/
theorem test_ID_BLOCKCOUNT_V16_V17 :
    valued State.reset [] (cmd 0x003040EF_00000000_00000000_00000000_002A) = some (0, 2147483648) ∧
    valued State.reset [] (cmd 0x003140EF_00000000_00000000_00000000_002A) = some (0, 0) := by
  decide

/-- Two rows of the table of section 2.3 for PAGE_TO_SECTOR. -/
theorem test_PAGE_TO_SECTOR :
    valued i64 [] (cmd 0x00000000_00000000_00000000_00000025_0020) = some (0, 2) ∧
    valued i64 [] (cmd 0x00000000_00000000_00000000_FFFFFFFF_0020) = some (0, 268435455) := by
  decide

/-- Two rows of the table of section 2.3 for PAGE_TO_BLOCK. -/
theorem test_PAGE_TO_BLOCK :
    valued i64 [] (cmd 0x00000000_00000000_00000000_000000FF_0021) = some (0, 0) ∧
    valued i64 [] (cmd 0x00000000_00000000_00000000_000003E8_0021) = some (0, 3) := by
  decide

/-- Two rows of the table of section 2.3 for SECTOR_TO_BLOCK. -/
theorem test_SECTOR_TO_BLOCK :
    valued i64 [] (cmd 0x00000000_00000000_00000000_0000000F_0022) = some (0, 0) ∧
    valued i64 [] (cmd 0x00000000_00000000_00000000_FFFFFFFF_0022) = some (0, 268435455) := by
  decide

/-- Two rows of the table of section 2.3 for SECTOR_TO_PAGE. -/
theorem test_SECTOR_TO_PAGE :
    valued i64 [] (cmd 0x00000000_00000000_00000000_000003FF_0023) = some (0, 16368) ∧
    valued i64 [] (cmd 0x00000000_00000000_00000000_10000000_0023) = some (0, 0) := by
  decide

/-- Two rows of the table of section 2.3 for BLOCK_TO_PAGE. -/
theorem test_BLOCK_TO_PAGE :
    valued i64 [] (cmd 0x00000000_00000000_00000000_00000003_0024) = some (0, 768) ∧
    valued i64 [] (cmd 0x00000000_00000000_00000000_FFFFFFFF_0024) = some (0, 4294967040) := by
  decide

/-- Two rows of the table of section 2.3 for BLOCK_TO_SECTOR. -/
theorem test_BLOCK_TO_SECTOR :
    valued i64 [] (cmd 0x00000000_00000000_00000000_0000003F_0025) = some (0, 1008) ∧
    valued i64 [] (cmd 0x00000000_00000000_00000000_0FFFFFFF_0025) = some (0, 4294967280) := by
  decide

/-- V22: the frames of a successful INIT in order. -/
theorem test_INIT_V22_trace :
    shown State.reset [0xEF, 0x40, 0x17, 0xD1, 0xD2, 0xD3, 0xD4, 0xD5, 0xD6, 0xD7, 0xD8, 0x00, 0x02, 0x60]
      (cmd 0x00000000_00000000_00000000_00000000_0000) =
    some (0, [.csHigh, .delay 100] ++ fr [0xAB] [] ++ fr [0x9F] [0xEF, 0x40, 0x17] ++
      fr [0x4B, 0, 0, 0, 0] [0xD1, 0xD2, 0xD3, 0xD4, 0xD5, 0xD6, 0xD7, 0xD8] ++ fr [0x05] [0x00] ++
      fr [0x35] [0x02] ++ fr [0x15] [0x60]) := by
  decide

/-- V22: the registers a successful INIT leaves are those of I64. -/
theorem test_INIT_V22_state :
    after (fun t => { t with trace := [], env := Environment.empty })
      (answering State.reset [0xEF, 0x40, 0x17, 0xD1, 0xD2, 0xD3, 0xD4, 0xD5, 0xD6, 0xD7, 0xD8, 0x00, 0x02, 0x60])
      (cmd 0x00000000_00000000_00000000_00000000_0000) = some i64 := by
  decide

/-- V36: an unknown manufacturer is accepted, the geometry is the operand's. -/
theorem test_INIT_NOID_V36 :
    after (fun t => [t.blockCount, t.sectorCount, t.pageCount, t.totalSize])
      (answering State.reset [0xC2, 0x20, 0x18, 1, 2, 3, 4, 5, 6, 7, 8, 0, 0, 0])
      (cmd 0x00000100_00000000_00000000_00000000_0001) = some [256, 4096, 65536, 16777216] ∧
    after (fun t => (t.initialized, t.jedecId, t.model))
      (answering State.reset [0xC2, 0x20, 0x18, 1, 2, 3, 4, 5, 6, 7, 8, 0, 0, 0])
      (cmd 0x00000100_00000000_00000000_00000000_0001) = some (true, 0x1820C2, .modelUnknown) := by
  decide

/-- V37, V38, V42, V43: the operand is checked before the already-initialized shortcut. -/
theorem test_INIT_NOID_V37_V42 :
    shown State.reset [] (cmd 0x00000000_00000000_00000000_00000000_0001) = some (2, []) ∧
    shown State.reset [] (cmd 0x00010000_00000000_00000000_00000000_0001) = some (2, []) ∧
    shown i64 [] (cmd 0x00000000_00000000_00000000_00000000_0001) = some (2, []) ∧
    shown i64 [] (cmd 0x00000005_00000000_00000000_00000000_0001) = some (0, []) := by
  decide

/-- V31 and V33 (the source's S7 for V31): no chip, and a model that is not known. -/
theorem test_INIT_failures_V31_V33 :
    shown State.reset [0xFF, 0xFF, 0xFF] (cmd 0x00000000_00000000_00000000_00000000_0000) =
      some (3, [.csHigh, .delay 100] ++ fr [0xAB] [] ++ fr [0x9F] [0xFF, 0xFF, 0xFF]) ∧
    after (fun t => (t.result.status.code, t.jedecId, t.manufacturer.code, t.initialized, t.uniqueId))
      (answering State.reset [0xEF, 0x40, 0x18]) (cmd 0x00000000_00000000_00000000_00000000_0000) =
      some (4, 0x1840EF, 1, false, 0) := by
  decide

/-- V44, V45: the frame at counter 0, the counter alone after it. -/
theorem test_ENTER_PD_V44 :
    shown i64 [] (cmd 0x00000000_00000000_00000000_00000000_0002) =
      some (0, [.lock] ++ fr [0xB9] [] ++ [.unlock]) ∧
    shown { i64 with pdCount := 1, powerMode := .deepPowerDown } []
      (cmd 0x00000000_00000000_00000000_00000000_0002) = some (0, [.lock, .unlock]) := by
  decide

/-- V49: the counter at its largest value. -/
theorem test_ENTER_PD_V49 :
    shown { i64 with pdCount := 0xFFFFFFFF, powerMode := .deepPowerDown } []
    (cmd 0x00000000_00000000_00000000_00000000_0002) = some (1, [.lock, .unlock]) := by
  decide

/-- V46, V47: the frame only where the counter reaches 0. -/
theorem test_EXIT_PD_V47 :
    shown { i64 with pdCount := 2, powerMode := .deepPowerDown } []
      (cmd 0x00000000_00000000_00000000_00000000_0003) = some (0, [.lock, .unlock]) ∧
    shown { i64 with pdCount := 1, powerMode := .deepPowerDown } []
      (cmd 0x00000000_00000000_00000000_00000000_0003) =
      some (0, [.lock] ++ fr [0xAB] [] ++ [.unlock]) := by
  decide

/-- V48: counter 0, nothing but the lock bracket. -/
theorem test_EXIT_PD_V48 :
    shown i64 [] (cmd 0x00000000_00000000_00000000_00000000_0003) = some (0, [.lock, .unlock]) := by
  decide

/-- V51: the two lock straps are independent. -/
theorem test_straps_V51 :
    shown { i64 with config := { i64.config with straps := { i64.config.straps with hasUnlock := false } } } []
    (cmd 0x00000000_00000000_00000000_00000000_0002) = some (0, [.lock] ++ fr [0xB9] []) := by
  decide

/-- V54: two busy polls, and the dummy byte is neither stored nor tested. -/
theorem test_WAIT_BUSY_V54 :
    shown i64 [0xAA, 0x03, 0x03, 0x00] (cmd 0x000001F4_00000000_00000000_00000000_0013) =
      some (0, [.lock] ++ pf 0xAA [0x03, 0x03, 0x00] ++ [.unlock]) ∧
    waited i64 [0xAA, 0x03, 0x03, 0x00] (cmd 0x000001F4_00000000_00000000_00000000_0013) =
      some (0, 499, 0x00) := by
  decide

/-- V58, V60, V59: the budget's last poll decides. -/
theorem test_WAIT_BUSY_V58_V60 :
    waited i64 [0xAA, 0x01] (cmd 0x00000000_00000000_00000000_00000000_0013) = some (1, 0, 0x01) ∧
    waited i64 (0xAA :: List.replicate 12 0x01) (cmd 0x00000001_00000000_00000000_00000000_0013) =
      some (1, 0, 0x01) ∧
    waited i64 (0xAA :: (List.replicate 9 0x01 ++ [0x00])) (cmd 0x00000001_00000000_00000000_00000000_0013) =
      some (0, 0, 0x00) := by
  decide

/-- V67. -/
theorem test_WRITE_ENABLE_V67 :
    shown i64 [] (cmd 0x00000000_00000000_00000000_00000000_0011) =
    some (0, [.lock] ++ fr [0x06] [] ++ [.unlock]) := by
  decide

/-- V68. -/
theorem test_WRITE_DISABLE_V68 :
    shown i64 [] (cmd 0x00000000_00000000_00000000_00000000_0012) =
    some (0, [.lock] ++ fr [0x04] [] ++ [.unlock]) := by
  decide

/-- V71, V73: an address formed from a page and an offset; the last byte of the device. -/
theorem test_READ_V71 :
    shown i64 [0xA0, 0xA1, 0xA2, 0xA3] (cmd 0x00000000_00000004_00000008_00000003_0104) =
      some (0, [.lock] ++ fr [0x0B, 0x00, 0x03, 0x08, 0x00] [0xA0, 0xA1, 0xA2, 0xA3] ++ [.unlock]) ∧
    after (fun t => t.result.data) (answering i64 [0xA0])
      (cmd 0x00000000_00000001_0000FFFF_0000003F_0304) = some [0xA0] := by
  decide

/-- V74, V76, V77: the checks, in their order, and an address computed without wrap. -/
theorem test_READ_V74_V77 :
    shown i64 [] (cmd 0x00000000_00000002_0000FFFF_0000003F_0304) = some (5, []) ∧
    shown i64 [] (cmd 0x00000000_00000000_00000000_00400000_0004) = some (2, []) ∧
    shown i64 [] (cmd 0x00000000_FFFFFFFF_FFFFFFFF_FFFFFFFF_0304) = some (5, []) := by
  decide

/-- V83: RANGE_CHECK false, the frame carries EA modulo 2^24. -/
theorem test_READ_V83 :
    shown { i64 with totalSize := 33554432, config := { i64.config with rangeCheck := false } } [0xFF, 0xFF]
      (cmd 0x00000000_00000002_00000000_01000010_0004) =
    some (0, [.lock] ++ fr [0x0B, 0x00, 0x00, 0x10, 0x00] [0xFF, 0xFF] ++ [.unlock]) := by
  decide

/-- V84, V94: one chunk and the final wait; a buffer of another length. -/
theorem test_WRITE_V84 :
    shown i64 [0, 0, 0, 0] (.command 0x00000000_00000001_00000000_00000000_0005 [0x5A]) =
      some (0, [.lock] ++ fr [0x06] [] ++ fr [0x02, 0x00, 0x00, 0x00, 0x5A] [] ++ pf 0 [0] ++ pf 0 [0] ++
        [.unlock]) ∧
    shown i64 [] (.command 0x00000000_00000004_00000000_00000000_0005 [1, 2, 3]) = some (2, []) := by
  decide

/-- V89: a write across a page boundary is two programs. -/
theorem test_WRITE_V89 :
    shown i64 [0, 0, 0, 0, 0, 0] (.command 0x00000000_0000000A_000000FA_00000003_0105
        [0, 1, 2, 3, 4, 5, 6, 7, 8, 9]) =
    some (0, [.lock] ++ fr [0x06] [] ++ fr [0x02, 0x00, 0x03, 0xFA, 0, 1, 2, 3, 4, 5] [] ++ pf 0 [0] ++
      fr [0x06] [] ++ fr [0x02, 0x00, 0x04, 0x00, 6, 7, 8, 9] [] ++ pf 0 [0] ++ pf 0 [0] ++ [.unlock]) := by
  decide

/-- V99, V100: a fresh id is returned, S.jedecId stays. -/
theorem test_RD_JEDEC_V100 :
    after (fun t => (t.result.value.toNat, t.jedecId)) (answering i64 [0xFF, 0xFF, 0xFF])
    (cmd 0x00000000_00000000_00000000_00000000_0014) = some (16777215, 0x1740EF) := by
  decide

/-- V101. -/
theorem test_RD_UID_V101 :
    after (fun t => (t.result.value.toNat, t.uniqueId)) (answering i64 [1, 2, 3, 4, 5, 6, 7, 8])
    (cmd 0x00000000_00000000_00000000_00000000_0015) = some (0x0102030405060708, 0xD1D2D3D4D5D6D7D8) := by
  decide

/-- V102, V106: the frames and the remaining budget; EA = CAP. -/
theorem test_ERASE_4K_V102 :
    shown i64 [0, 0] (cmd 0x00000000_00000000_00000000_00000002_0206) =
      some (0, [.lock] ++ fr [0x06] [] ++ fr [0x20, 0x00, 0x20, 0x00] [] ++ pf 0 [0] ++ [.unlock]) ∧
    waited i64 [0, 0] (cmd 0x00000000_00000000_00000000_00000002_0206) = some (0, 9999, 0) ∧
    shown i64 [] (cmd 0x00000000_00000000_00000000_00000400_0206) = some (5, []) := by
  decide

/-- V110. -/
theorem test_ERASE_32K_V110 :
    shown i64 [0, 0] (cmd 0x00000000_00000000_00000000_00000001_0307) =
      some (0, [.lock] ++ fr [0x06] [] ++ fr [0x52, 0x01, 0x00, 0x00] [] ++ pf 0 [0] ++ [.unlock]) ∧
    waited i64 [0, 0] (cmd 0x00000000_00000000_00000000_00000001_0307) = some (0, 15999, 0) := by
  decide

/-- V112. -/
theorem test_ERASE_64K_V112 :
    shown i64 [0, 0] (cmd 0x00000000_00000000_00000000_00000003_0308) =
      some (0, [.lock] ++ fr [0x06] [] ++ fr [0xD8, 0x03, 0x00, 0x00] [] ++ pf 0 [0] ++ [.unlock]) ∧
    waited i64 [0, 0] (cmd 0x00000000_00000000_00000000_00000003_0308) = some (0, 24999, 0) := by
  decide

/-- V116: operands are ignored. -/
theorem test_ERASE_CHIP_V116 :
    shown i64 [0, 0] (cmd 0x00000000_00000000_00000000_FFFFFFFF_0009) =
      some (0, [.lock] ++ fr [0x06] [] ++ fr [0xC7] [] ++ pf 0 [0] ++ [.unlock]) ∧
    waited i64 [0, 0] (cmd 0x00000000_00000000_00000000_FFFFFFFF_0009) = some (0, 159999, 0) := by
  decide

/-- V118: the value, and its slot alone. -/
theorem test_RD_SR1_V118 :
    valued i64 [0x03] (cmd 0x00000000_00000000_00000000_00000000_000B) = some (0, 3) ∧
    after (fun t => (t.sr1, t.sr2, t.sr3)) (answering i64 [0x03])
      (cmd 0x00000000_00000000_00000000_00000000_000B) = some (0x03, 0x02, 0x60) := by
  decide

/-- V119: the value, and its slot alone. -/
theorem test_RD_SR2_V119 :
    valued i64 [0x42] (cmd 0x00000000_00000000_00000000_00000000_000C) = some (0, 66) ∧
    after (fun t => (t.sr1, t.sr2, t.sr3)) (answering i64 [0x42])
      (cmd 0x00000000_00000000_00000000_00000000_000C) = some (0x00, 0x42, 0x60) := by
  decide

/-- V120: the value, and its slot alone. -/
theorem test_RD_SR3_V120 :
    valued i64 [0x07] (cmd 0x00000000_00000000_00000000_00000000_000D) = some (0, 7) ∧
    after (fun t => (t.sr1, t.sr2, t.sr3)) (answering i64 [0x07])
      (cmd 0x00000000_00000000_00000000_00000000_000D) = some (0x00, 0x02, 0x07) := by
  decide

/-- V121, V122: slot 1 ends with the polled byte; only arg[7:0] is sent. -/
theorem test_WR_SR1_V121 :
    after (fun t => (t.sr1, t.result.remainingMs)) (answering i64 [0xAA, 0x00])
      (cmd 0x00000002_00000000_00000000_00000000_000E) = some (0x00, 499) ∧
    shown i64 [0xAA, 0x00] (cmd 0x000001FF_00000000_00000000_00000000_000E) =
      some (0, [.lock] ++ fr [0x06] [] ++ fr [0x01, 0xFF] [] ++ pf 0xAA [0] ++ [.unlock]) := by
  decide

/-- V123. -/
theorem test_WR_SR2_V123 :
    after (fun t => (t.sr1, t.sr2, t.sr3, t.result.status.code)) (answering i64 [0xAA, 0x00])
    (cmd 0x0000000A_00000000_00000000_00000000_000F) = some (0x00, 0x0A, 0x60, 0) := by
  decide

/-- V124. -/
theorem test_WR_SR3_V124 :
    after (fun t => (t.sr1, t.sr2, t.sr3, t.result.remainingMs)) (answering i64 [0xAA, 0x01, 0x02])
    (cmd 0x00000060_00000000_00000000_00000000_0010) = some (0x02, 0x02, 0x60, 499) := by
  decide

/-- V129: probes of 64 bytes and of 1, each in its own lock bracket. -/
theorem test_IS_EMPTY_V129 :
    shown i64 (List.replicate 65 0xFF) (cmd 0x00000000_00000041_00000000_00002000_000A) =
    some (0, [.lock] ++ fr [0x0B, 0x00, 0x20, 0x00, 0x00] (List.replicate 64 0xFF) ++ [.unlock, .lock] ++
      fr [0x0B, 0x00, 0x20, 0x40, 0x00] [0xFF] ++ [.unlock]) := by
  decide

/-- V131: the scan stops at the first probe with another byte. -/
theorem test_IS_EMPTY_V131 :
    shown i64 (0x00 :: List.replicate 127 0xFF) (cmd 0x00000000_00000080_00000000_00002000_000A) =
    some (7, [.lock] ++ fr [0x0B, 0x00, 0x20, 0x00, 0x00] (0x00 :: List.replicate 63 0xFF) ++ [.unlock]) := by
  decide

/-- The gate (the source's S6): nothing is sent before INIT, not even a LOCK (P5 steps 1 to 6). -/
theorem test_gate_V52_V98 :
    shown State.reset [] (.command 0x00000000_00000001_00000000_00000000_0005 [0x5A]) = some (6, []) ∧
    shown State.reset [] (cmd 0x00000000_00000000_00000000_00000000_0009) = some (6, []) ∧
    shown State.reset [] (cmd 0x00000000_00000000_00000000_00000000_0004) = some (6, []) ∧
    shown State.reset [] (cmd 0x00000000_00000000_00000000_00000000_0002) = some (6, []) ∧
    shown State.reset [] (cmd 0x00000000_00000000_00000000_00000000_0013) = some (6, []) ∧
    shown State.reset [] (cmd 0x00000000_00000000_00000000_00000003_0024) = some (6, []) := by
  decide

/-- V148, V149: a reserved op_sel, before the gate and after INIT. -/
theorem test_reserved_V148 :
    shown State.reset [] (cmd 0x00000000_00000000_00000000_FFFFFFFF_0316) = some (2, []) ∧
    shown i64 [] (cmd 0x00000000_00000000_00000000_00000000_001F) = some (2, []) := by
  decide

/-- A reference device (R72): awake, idle, with an array and a test-chosen busy count. -/
def device (mem : Memory) (busyAfter : Nat) : RefDevice :=
  { mem := mem, capDev := 4194304, wel := false, busyPolls := 0, busyAfter := busyAfter, dpd := false
    dsr2 := 0x02, dsr3 := 0x60, idBytes := [0xEF, 0x40, 0x17], uidBytes := [1, 2, 3, 4, 5, 6, 7, 8]
    txSeen := [], rxSeen := 0 }

/-- A state with a reference device fitted. -/
def fitted (s : State) (d : RefDevice) : State := { s with env := { s.env with device := some d } }


/-- A short form of P2 step 1: two programs land on both sides of the page boundary, and in each wait the
dummy byte takes the device's one busy poll. -/
theorem test_device_write :
    after (fun t => t.env.device.map fun d => d.mem) (fitted i64 (device [] 1))
      (.command 0x00000000_00000002_00000000_000000FF_0005 [0x00, 0x01]) =
      some (some [(0xFF, 0x00), (0x100, 0x01)]) ∧
    shown (fitted i64 (device [] 1)) [] (.command 0x00000000_00000002_00000000_000000FF_0005 [0x00, 0x01]) =
      some (0, [.lock] ++ fr [0x06] [] ++ fr [0x02, 0x00, 0x00, 0xFF, 0x00] [] ++ pf 0x03 [0x00] ++
        fr [0x06] [] ++ fr [0x02, 0x00, 0x01, 0x00, 0x01] [] ++ pf 0x03 [0x00] ++ pf 0x00 [0x00] ++ [.unlock]) := by
  decide

/-- P2 step 2: what was written is read back, with erased bytes around it. -/
theorem test_device_read :
    after (fun t => t.result.data) (fitted i64 (device [(0xFF, 0x00), (0x100, 0x01), (0x101, 0x02)] 1))
    (cmd 0x00000000_00000004_00000000_000000FE_0004) = some [0xFF, 0x00, 0x01, 0x02] := by
  decide

/-- P4 steps 2 and 7: the sector alone is erased, and of three busy polls the dummy byte takes one. -/
theorem test_device_erase :
    after (fun t => t.env.device.map fun d => d.mem)
      (fitted i64 (device [(0x1FFF, 0x00), (0x2000, 0x00), (0x2FFF, 0x00), (0x3000, 0x00)] 3))
      (cmd 0x00000000_00000000_00000000_00000002_0206) = some (some [(0x1FFF, 0x00), (0x3000, 0x00)]) ∧
    shown (fitted i64 (device [] 3)) [] (cmd 0x00000000_00000000_00000000_00000002_0206) =
      some (0, [.lock] ++ fr [0x06] [] ++ fr [0x20, 0x00, 0x20, 0x00] [] ++ pf 0x03 [0x03, 0x03, 0x00] ++
        [.unlock]) := by
  decide

/-- P3 step 3: an asleep device answers 0xFF, and the operation is sent all the same. -/
theorem test_device_asleep :
    valued (fitted i64 { device [] 1 with dpd := true }) [] (cmd 0x00000000_00000000_00000000_00000000_000C) =
    some (0, 255) := by
  decide

/-! ### Every statement's hypotheses are met -/

theorem i64_geometry : GeometryHolds i64 := by unfold GeometryHolds; decide

theorem i64_blockInv : BlockInv i64 :=
  ⟨fun _ => i64_geometry, by unfold PowerHolds; decide, rfl⟩

/-- I64 meets what most statements ask: initialized, and LOCK returns. -/
theorem i64_ready : i64.initialized = true ∧ i64.lockReturns = true ∧ i64.seq = .idle := by decide

theorem witness_DecodeEncode : Instr.wellFormed (.pp 0x0000FF [0x5A]) = true ∧
    Instr.wellFormed (.fread 0xFFFFFF 1) = true ∧ Instr.wellFormed (.poll 4294967) = true := by decide

theorem witness_EncodeDecodeFrame : decode (.frame [0x05] (.polls 4294967)) = .ok (.poll 4294967) ∧
    decode (.frame [0x02, 0x00, 0x00, 0xFF, 0x5A] .none) = .ok (.pp 0x0000FF [0x5A]) := by decide

/-- The op_sel values at both ends of every reserved range. -/
theorem witness_ReservedOpSel :
    (presenting i64 (cmd 0x0316)).seq = .idle ∧
      (presenting i64 (cmd 0x0316)).port = .issue (.command 0x0316 []) :: [] ∧
      ((0x0316 : CmdWord).extractLsb' 0 8).toNat = 0x16 ∧ ((0x001F : CmdWord).extractLsb' 0 8).toNat = 0x1F ∧
      ((0x0026 : CmdWord).extractLsb' 0 8).toNat = 0x26 ∧ ((0x0027 : CmdWord).extractLsb' 0 8).toNat = 0x27 ∧
      ((0x002B : CmdWord).extractLsb' 0 8).toNat = 0x2B ∧ ((0x00FF : CmdWord).extractLsb' 0 8).toNat = 0xFF := by
  decide

theorem witness_HardReset : { i64 with port := [.hardReset] }.seq = .idle ∧
    { i64 with port := [.hardReset] }.port = .hardReset :: [] := by decide

theorem witness_StepRunsDecoded : (presenting i64 (cmd 0x0002)).seq = .idle ∧
    (presenting i64 (cmd 0x0002)).port = .issue (cmd 0x0002) :: [] ∧ decode (cmd 0x0002) = .ok .enterPd := by
  decide

theorem witness_StepWithoutInstruction : (State.reset.seq = .idle ∧ State.reset.port = []) ∧
    ({ i64 with seq := .run .init, port := [.hardReset] }.port = .hardReset :: [] ∧
      { i64 with seq := .run .init, port := [.hardReset] }.seq = .run .init) ∧
    { presenting i64 (cmd 0x0002) with seq := .run .init }.seq = .run .init ∧
    ((presenting i64 (.frame [0x9E] .none)).port = .issue (.frame [0x9E] .none) :: [] ∧
      knownOpcode [0x9E] = false ∧ knownOpcode [] = false) := by decide

/-- A known opcode with a byte too many is the encoding of no instruction, and a step on it is refused. -/
theorem witness_StepWithoutInstruction_badFrame :
    (∀ i : Instr, i.wellFormed = true → encode i ≠ .frame [0x06, 0x00] .none) ∧ knownOpcode [0x06, 0x00] = true ∧
      step (presenting i64 (.frame [0x06, 0x00] .none)) = .refused .notAFrame := by
  refine ⟨?_, by decide, rfl⟩
  intro i _
  cases i <;> simp [encode, plainCommand, argCommand, indexCommand]

theorem witness_BlockInvKept :
    BlockInv i64 ∧ (after id i64 (cmd 0x0002)).isSome = true ∧ BlockInv State.reset ∧
      (after id State.reset (cmd 0x0002)).isSome = true :=
  ⟨i64_blockInv, by decide, ⟨fun h => absurd h (by decide), by unfold PowerHolds; decide, rfl⟩, by decide⟩

theorem witness_BusDisciplineKept :
    WellFramed (fr [0x06] [] ++ fr [0x9F] [1, 2, 3] ++ pf 0xAA [0x00]) ∧
      (after id i64 (cmd 0x0002)).isSome = true := by unfold WellFramed; decide

theorem witness_LockBalanceKept :
    i64.config.straps.hasLock = i64.config.straps.hasUnlock ∧ LockBalanced [.lock, .unlock] ∧
      (after id i64 (cmd 0x0002)).isSome = true := by unfold LockBalanced; decide

theorem witness_DeviceInvKept :
    DeviceInv (fitted i64 (device [(0x10, 0x00)] 1)) ∧
      (after id (fitted i64 (device [(0x10, 0x00)] 1)) (cmd 0x0002)).isSome = true := by
  refine ⟨?_, by decide⟩
  intro d h
  cases h
  decide

/-- The next state of an instruction on a state. -/
def ran (i : Instr) (s : State) : Option State :=
  match exec i s with
  | .next t => some t
  | .fault _ => none
  | .refused _ => none

theorem exec_of_ran {i : Instr} {s t : State} (h : ran i s = some t) : exec i s = .next t := by
  unfold ran at h
  split at h
  · simp at h; subst h; assumption
  · simp at h
  · simp at h

/-- The oracle of P1 step 1. -/
def initScript : List Byte := [0xEF, 0x40, 0x17, 0xD1, 0xD2, 0xD3, 0xD4, 0xD5, 0xD6, 0xD7, 0xD8, 0x00, 0x02, 0x60]

theorem witness_InitializedMonotone :
    (ran .init (answering State.reset initScript)).map (fun t => t.initialized) = some true ∧
      (answering State.reset initScript).initialized = false ∧ i64.initialized = true ∧
      (ran .init i64).isSome = true := by decide

/-- One instruction for each clause of the table, with the guards of its clause. -/
theorem witness_AccessTable :
    (ran .eraseChip (answering i64 [0, 0])).isSome = true ∧ initializes .eraseChip = false ∧
      (Instr.eraseChip ≠ .enterPd ∧ Instr.eraseChip ≠ .exitPd) ∧ (ran .rdSr2 (answering i64 [7])).isSome = true ∧
      endsInWait .rdSr2 = false ∧ Instr.rdSr2 ≠ .rdSr1 ∧ Instr.rdSr2 ≠ .rdSr3 ∧ ∀ v, Instr.rdSr2 ≠ .wrSr3 v := by
  refine ⟨by decide, by decide, by decide, by decide, by decide, by decide, by decide, ?_⟩
  intro v h
  cases h

theorem witness_ConfigurationKept : (after id i64 (cmd 0x0002)).isSome = true := by decide

/-- I64 where a call of LOCK never returns. -/
def stuck : State := { i64 with env := { i64.env with lockGrants := false } }

/-- The first erase address past the range check, the last budget that fits, and a program inside the device. -/
theorem witness_EveryOperationEnds : i64.lockReturns = true ∧ stuck.initialized = true ∧
    (stuck.config.straps.hasLock = true ∧ stuck.env.lockGrants = false) ∧ takesLock stuck .rdSr1 ∧
    takesLock stuck (.waitBusy 4294967) ∧ ¬ takesLock stuck (.waitBusy 4294968) ∧
    takesLock stuck (.erase4k .byte 0x3FFFFF 0) ∧ ¬ takesLock stuck (.erase4k .byte 0x400000 0) ∧
    takesLock stuck (.write .byte 0x10 0 1 [0x5A]) := by
  simp only [takesLock, accepted, eraseAccepted]
  decide

theorem witness_EveryOperationEnds_fault : exec .rdSr1 stuck = .fault .lockNeverGranted := by
  simp only [exec, execRdSr1]
  rw [gate_of_initialized (by decide)]
  rfl

theorem witness_GateRejects : isGated .enterPd = true ∧ State.reset.initialized = false ∧
    (ran .enterPd State.reset).map (fun t => t.result.status) = some .notInitialized := by decide

theorem witness_KindsReturned : (ran .eraseChip (answering i64 [0, 0])).isSome = true := by decide

/-- A zero length; a buffer of another length; one byte past the capacity; an erase at the capacity. -/
theorem witness_OperandErrors : i64.initialized = true ∧ i64.config.rangeCheck = true ∧
    ([0x5A] : List Byte).length ≠ (2 : Word).toNat ∧ ([0x5A] : List Byte).length = (1 : Word).toNat ∧
    (1 : Word) ≠ 0 ∧ i64.effAddr .byte 0x400000 0 + (1 : Word).toNat = i64.capacity + 1 ∧
    i64.effAddr .byte 0x400000 0 = i64.capacity ∧ GeometryHolds i64 :=
  ⟨by decide, by decide, by decide, by decide, by decide, by decide, by decide, i64_geometry⟩

theorem witness_FrameDiscipline : (ran .eraseChip (answering i64 [0, 0])).isSome = true ∧
    isHostOp .eraseChip = true := by decide

theorem witness_CachesDecideNothing :
    SameButCaches i64 { i64 with sr1 := 0x03, sr3 := 0x00, powerMode := .deepPowerDown } := rfl

theorem witness_OracleAnswers : (answering i64 [1, 2, 3]).env.device = none ∧
    3 ≤ (answering i64 [1, 2, 3]).env.script.length := by decide

theorem witness_PollFrame : (4294967 : Word).toNat * 1000 < 2 ^ 32 := by decide

/-- REFCFG with the model entries of V34 and V35. -/
def wider : Config := { Params.refConfig with
  mfrTable := [{ mfrByte := 0xEF, modelSel := .sel23_8, modelTable := [0x1740, 0x1140, 0x2140],
                 densitySel := .bits23_16, densityOffset := 0x12 }] }

/-- The id an INIT of this state reads. -/
def readId (s : State) : JedecId :=
  jedecOfBytes ((s.env.deselect.frame [0xAB] 0).2.frame [0x9F] 3).1

theorem witness_InitCompletes :
    Straps.required (answering State.reset initScript).config.straps = true ∧
      (answering State.reset initScript).initialized = false ∧
      readId (answering State.reset initScript) = 0x1740EF ∧
      Config.interpretModel State.reset.config 0x1740EF ≠ .modelUnknown ∧
      Config.blockCountFromId State.reset.config 0x1740EF = 64 ∧
      (1 : Word).toNat = 1 ∧ (65535 : Word).toNat = 65535 := by decide

theorem witness_InitWithoutEvent :
    Straps.required { Params.allStraps with hasTx := false } = false ∧ (65536 : Word).toNat = 65535 + 1 ∧
      (0 : Word).toNat = 0 ∧ Straps.required i64.config.straps = true ∧ i64.initialized = true := by decide

theorem witness_NoMemoryFound :
    (ran .init (answering State.reset [0xFF, 0xFF, 0xFF])).map (fun t => t.result.status) =
        some .noMemoryFound ∧
      readId (answering State.reset [0, 0, 0]) = 0x000000 ∧ Straps.required State.reset.config.straps = true ∧
      State.reset.initialized = false := by decide

theorem witness_InitUnknownDevice :
    readId (answering State.reset [0xEF, 0x40, 0x18]) = 0x1840EF ∧
      Config.interpretModel State.reset.config 0x1840EF = .modelUnknown ∧
      Config.interpretModel wider 0x1140EF ≠ .modelUnknown ∧ Config.blockCountFromId wider 0x1140EF = 0 ∧
      Config.interpretModel wider 0x2140EF ≠ .modelUnknown ∧
      Config.blockCountFromId wider 0x2140EF = 65536 ∧ Straps.required wider.straps = true := by decide

/-- The counter at 0, at 1, at 2, one below its largest value, and at it. -/
theorem witness_PowerDown : i64.initialized = true ∧ i64.lockReturns = true ∧ i64.pdCount.toNat = 0 ∧
    { i64 with pdCount := 1 }.pdCount.toNat = 1 ∧ { i64 with pdCount := 2 }.pdCount.toNat = 2 ∧
    { i64 with pdCount := 0xFFFFFFFE }.pdCount.toNat = 2 ^ 32 - 2 ∧
    { i64 with pdCount := 0xFFFFFFFF }.pdCount.toNat = 2 ^ 32 - 1 := by decide

theorem witness_PowerDownNesting : i64.initialized = true ∧ i64.lockReturns = true ∧ i64.pdCount = 0 ∧
    1 ≤ 2 ^ 32 - 1 ∧ 2 ^ 32 - 1 < 2 ^ 32 := by decide

/-- The last byte of the device (V73), and a state with RANGE_CHECK false. -/
theorem witness_Read : i64.initialized = true ∧ i64.lockReturns = true ∧ (1 : Word) ≠ 0 ∧
    (63 : Word).toNat * i64.unitSize .block + (65535 : Word).toNat + (1 : Word).toNat = i64.capacity ∧
    { i64 with config := { i64.config with rangeCheck := false } }.config.rangeCheck = false := by decide

theorem witness_Write : i64.initialized = true ∧ i64.lockReturns = true ∧ GeometryHolds i64 ∧
    (1 : Word) ≠ 0 ∧ ([0xAA] : List Byte).length = (1 : Word).toNat ∧
    (0x3FFFFF : Word).toNat * i64.unitSize .byte + (0 : Word).toNat + (1 : Word).toNat = i64.capacity :=
  ⟨by decide, by decide, i64_geometry, by decide, by decide, by decide⟩

/-- Two bytes on both sides of a page boundary, every poll answered 0: the hypotheses, and the status Ok of the
last clause. -/
theorem witness_ChunkLaw : i64.initialized = true ∧ i64.lockReturns = true ∧ GeometryHolds i64 ∧
    (2 : Word) ≠ 0 ∧ ([0x5A, 0x5B] : List Byte).length = (2 : Word).toNat ∧
    (0xFF : Word).toNat * i64.unitSize .byte + (0 : Word).toNat + (2 : Word).toNat ≤ i64.capacity ∧
    (ran (.write .byte 0xFF 0 2 [0x5A, 0x5B]) (answering i64 [0, 0, 0, 0, 0, 0])).map
      (fun t => (t.result.status, txFrames t.trace)) =
      some (.ok, [[0x06], [0x02, 0, 0, 0xFF, 0x5A], [0x05], [0x06], [0x02, 0, 1, 0, 0x5B], [0x05], [0x05]]) :=
  ⟨by decide, by decide, i64_geometry, by decide, by decide, by decide, by decide⟩

/-- The last address of the device. -/
theorem witness_Erases : i64.initialized = true ∧ i64.lockReturns = true ∧
    (0x3FFFFF : Word).toNat * i64.unitSize .byte + (0 : Word).toNat + 1 = i64.capacity := by decide

theorem witness_IsEmpty : i64.initialized = true ∧ i64.lockReturns = true ∧ (64 : Word) ≠ 0 ∧
    (0x3FFFC0 : Word).toNat * i64.unitSize .byte + (0 : Word).toNat + (64 : Word).toNat = i64.capacity := by
  decide

theorem witness_RegionIsNotEmpty : i64.initialized = true ∧ i64.lockReturns = true ∧ (1 : Word) ≠ 0 ∧
    (0x2000 : Word).toNat * i64.unitSize .byte + (0 : Word).toNat + (1 : Word).toNat ≤ i64.capacity ∧
    (ran (.isEmpty .byte 0x2000 0 1) (answering i64 [0x00])).map (fun t => t.result.status) =
      some .regionIsNotEmpty := by decide

/-- PROBE_SIZE 2 over three bytes: an erased region, and one whose last byte is not. -/
theorem witness_ProbeLaw :
    let s := { i64 with config := { i64.config with probeSize := 2, probeSize_pos := by decide } }
    s.initialized = true ∧ s.lockReturns = true ∧ (3 : Word) ≠ 0 ∧
    (0x2000 : Word).toNat * s.unitSize .byte + (0 : Word).toNat + (3 : Word).toNat ≤ s.capacity ∧
    (ran (.isEmpty .byte 0x2000 0 3) (answering s [0xFF, 0xFF, 0xFF])).map (fun t => t.result.status) =
      some .ok ∧
    (ran (.isEmpty .byte 0x2000 0 3) (answering s [0xFF, 0xFF, 0x00])).map
      (fun t => (t.result.status, rxData t.trace)) = some (.regionIsNotEmpty, [[0xFF, 0xFF], [0x00]]) := by
  decide

theorem witness_ReadStatus : i64.initialized = true ∧ i64.lockReturns = true := by decide

theorem witness_WriteStatus : i64.initialized = true ∧ i64.lockReturns = true := by decide

theorem witness_WriteEnableDisable : i64.initialized = true ∧ i64.lockReturns = true := by decide

theorem witness_ReadIds : i64.initialized = true ∧ i64.lockReturns = true := by decide

/-- The largest budget that fits the counter and the next. -/
theorem witness_WaitBusy : i64.initialized = true ∧ i64.lockReturns = true ∧
    (4294967 : Word).toNat * 1000 < 2 ^ 32 ∧ 2 ^ 32 ≤ (4294968 : Word).toNat * 1000 := by decide

/-- Both ends of a wait of one millisecond: not busy on the last poll, and busy on it (V59, V60). -/
theorem witness_WaitIterations : i64.initialized = true ∧ i64.lockReturns = true ∧
    (1 : Word).toNat * 1000 < 2 ^ 32 ∧ i64.env.device = none ∧
    (answering i64 (0xAA :: List.replicate 9 0x01 ++ 0x00 :: [])).env.script =
      0xAA :: List.replicate 9 0x01 ++ 0x00 :: [] ∧
    (∀ b ∈ List.replicate 9 (0x01 : Byte), b.getLsbD 0 = true) ∧
    (List.replicate 9 (0x01 : Byte)).length + 1 = maxPolls (1 : Word).toNat ∧ (0x00 : Byte).getLsbD 0 = false ∧
    (0x01 : Byte).getLsbD 0 = true := by decide

theorem witness_CachedBusyBit : endsInWait (.waitBusy 0) = true ∧
    (ran (.waitBusy 0) (answering i64 [0xAA, 0x00])).map (fun t => t.result.status) = some .ok ∧
    (ran (.waitBusy 0) (answering i64 [0xAA, 0x01])).map (fun t => t.result.status) = some .fail := by decide

theorem witness_DownwardConversions :
    CmdWord.index 0x00000009_00000009_00000009_00000025_0320 = 0x25 ∧
      CmdWord.opSel 0x00000009_00000009_00000009_00000025_0320 = 0x20 ∧
      CmdWord.opSel 0x0021 = 0x21 ∧ CmdWord.opSel 0x0022 = 0x22 ∧ State.reset.initialized = false ∧
      i64.initialized = true ∧ GeometryHolds i64 :=
  ⟨by decide, by decide, by decide, by decide, by decide, by decide, i64_geometry⟩

theorem witness_UpwardConversions : i64.initialized = true ∧ GeometryHolds i64 := ⟨rfl, i64_geometry⟩

/-- The largest indexes whose way up fits 32 bits. -/
theorem witness_RoundTrips : i64.initialized = true ∧ GeometryHolds i64 ∧
    (0x0FFFFFFF : Word).toNat * 16 < 2 ^ 32 ∧ (0x00FFFFFF : Word).toNat * 256 < 2 ^ 32 :=
  ⟨rfl, i64_geometry, by decide, by decide⟩

/-- The entry of REFCFG. -/
def mfrA : MfrEntry :=
  { mfrByte := 0xEF, modelSel := .sel23_8, modelTable := [0x1740], densitySel := .bits23_16,
    densityOffset := 0x12 }

theorem witness_IdDecoding :
    (∀ e ∈ Params.refConfig.mfrTable, e.mfrByte ≠ (0x1740C2 : JedecId).extractLsb' 0 8) ∧
      Params.refConfig.mfrTable = [] ++ mfrA :: [] ∧ mfrA.mfrByte = (0x1740EF : JedecId).extractLsb' 0 8 ∧
      (0x1840EF : JedecId).extractLsb' 8 16 ∉ mfrA.modelTable ∧
      mfrA.modelTable = [] ++ (0x1740EF : JedecId).extractLsb' 8 16 :: [] := by decide

/-- The density byte below the offset, at it, at the largest count, and past it; and no density scheme. -/
theorem witness_BlockCount :
    Params.refConfig.mfrTable = [] ++ mfrA :: [] ∧ mfrA.densitySel = .bits23_16 ∧
      mfrA.densityOffset.toNat = 0x12 ∧ ((0x1140EF : JedecId).extractLsb' 16 8).toNat + 1 = 0x12 ∧
      ((0x1240EF : JedecId).extractLsb' 16 8).toNat = 0x12 ∧
      ((0x3040EF : JedecId).extractLsb' 16 8).toNat - 0x12 + 1 = 31 ∧
      ((0x3140EF : JedecId).extractLsb' 16 8).toNat - 0x12 + 1 = 32 ∧
      { mfrA with densitySel := .noDensity }.densitySel = .noDensity := by decide

theorem witness_IdOperations :
    Config.interpretManufacturer State.reset.config 0x1740C2 = .unknown ∧
      Config.interpretManufacturer State.reset.config 0x1740EF = .member 0 ∧
      Config.interpretModel State.reset.config 0x1840EF = .modelUnknown ∧
      Config.interpretModel State.reset.config 0x1740EF = .member 0 := by decide

theorem witness_ArrayKept : changesArray .rdSr1 = false ∧
    (fitted i64 (device [(0x10, 0x00)] 1)).env.device = some (device [(0x10, 0x00)] 1) ∧
    DeviceInv (fitted i64 (device [(0x10, 0x00)] 1)) ∧
    (ran .rdSr1 (fitted i64 (device [(0x10, 0x00)] 1))).isSome = true :=
  ⟨by decide, by decide, witness_DeviceInvKept.1, by decide⟩

theorem witness_ReadReturnsArray : i64.initialized = true ∧ i64.lockReturns = true ∧
    (fitted i64 (device [(0x10, 0x00)] 1)).env.device = some (device [(0x10, 0x00)] 1) ∧
    (device [(0x10, 0x00)] 1).dpd = false ∧ (1 : Word) ≠ 0 ∧
    (0x3FFFFF : Word).toNat * i64.unitSize .byte + (0 : Word).toNat + (1 : Word).toNat ≤ i64.capacity := by
  decide

theorem witness_ArrayFrames :
    Memory.wf (device [(0x10, 0x00)] 1).mem = true ∧ (device [(0x10, 0x00)] 1).dpd = false ∧
      { device [(0x10, 0x00)] 1 with wel := true }.wel = true ∧
      (0x3FFFFF : Addr).toNat + ([0x5A] : List Byte).length = (device [(0x10, 0x00)] 1).capDev := by decide

theorem witness_WriteArrayFrame : GeometryHolds i64 ∧ Memory.wf (device [(0x10, 0x00)] 1).mem = true ∧
    ((ran (.write .byte 0x10 0 1 [0x5A]) (fitted i64 (device [(0x10, 0x00)] 1))).map fun t =>
      t.env.device.isSome) = some true ∧
    ∀ j < ([0x5A] : List Byte).length, (0x10 + j) % 2 ^ 24 % (device [(0x10, 0x00)] 1).capDev ≠ 0x11 :=
  ⟨i64_geometry, by decide, by decide, by decide⟩

end Sys2Proof.Tests
end

section
/-! SUPPORT. What every instruction can do to the Device Instance, said once (Table R36). -/

namespace Sys2Proof.Machine

open Safety

/-! ### Keeping every register of the Device Instance -/

/-- `t` is `s` but for the trace, the environment, the result record and SEQ: every register of the Device
Instance, the configuration and the host port are kept. -/
def RegsKept (s t : State) : Prop :=
  ∃ tr e r q, t = { s with trace := tr, env := e, result := r, seq := q }

theorem RegsKept.refl (s : State) : RegsKept s s := ⟨_, _, _, _, rfl⟩

section
variable {s t : State} (h : RegsKept s t)
include h

theorem RegsKept.finish (r : Result) : RegsKept s (t.finish r) := by
  obtain ⟨_, _, _, _, rfl⟩ := h
  exact ⟨_, _, _, _, rfl⟩

theorem RegsKept.takeLock : RegsKept s t.takeLock := by
  obtain ⟨_, _, _, _, rfl⟩ := h
  exact ⟨_, _, _, _, State.takeLock_spec _⟩

theorem RegsKept.dropLock : RegsKept s t.dropLock := by
  obtain ⟨_, _, _, _, rfl⟩ := h
  exact ⟨_, _, _, _, State.dropLock_spec _⟩

theorem RegsKept.frame (bytes : List Byte) (n : Nat) : RegsKept s (t.frame bytes n).2 := by
  obtain ⟨_, _, _, _, rfl⟩ := h
  rw [State.frame_spec]
  exact ⟨_, _, _, _, rfl⟩

theorem RegsKept.initialized_eq : t.initialized = s.initialized := by
  obtain ⟨_, _, _, _, rfl⟩ := h
  rfl

theorem RegsKept.geometryHolds_iff : GeometryHolds t ↔ GeometryHolds s := by
  obtain ⟨_, _, _, _, rfl⟩ := h
  rfl

theorem RegsKept.powerHolds_iff : PowerHolds t ↔ PowerHolds s := by
  obtain ⟨_, _, _, _, rfl⟩ := h
  rfl

end

/-! ### The status cache -/

/-- The status cache with some of its slots written (R27). -/
def State.cache (s : State) (k1 k2 k3 : Option Byte) : State :=
  { s with sr1 := k1.getD s.sr1, sr2 := k2.getD s.sr2, sr3 := k3.getD s.sr3 }

theorem RegsKept.trans {s t u : State} (h : RegsKept s t) (h' : RegsKept t u) : RegsKept s u := by
  obtain ⟨_, _, _, _, rfl⟩ := h
  obtain ⟨_, _, _, _, rfl⟩ := h'
  exact ⟨_, _, _, _, rfl⟩

theorem State.cache_none (s : State) : s.cache none none none = s := rfl

theorem RegsKept.cache_none {s t : State} (h : RegsKept s t) : RegsKept (s.cache none none none) t := h

theorem RegsKept.cache {s t : State} (h : RegsKept s t) (k1 k2 k3 : Option Byte) :
    RegsKept (s.cache k1 k2 k3) (t.cache k1 k2 k3) := by
  obtain ⟨_, _, _, _, rfl⟩ := h
  exact ⟨_, _, _, _, rfl⟩

/-- A status Ok goes with a status byte that is not busy, a status Fail with a busy one (R205, R285). -/
def BusyAgrees (status : ErrorKind) (v : Byte) : Prop :=
  (status = .ok → v.getLsbD 0 = false) ∧ (status = .fail → v.getLsbD 0 = true)

/-- How a busy-wait ends is told by the last byte polled (R205, R206). -/
theorem busyAgrees_of_waitsAs {ms rem : Nat} {before : List Byte} {last : Byte} {st : ErrorKind}
    (h : WaitsAs ms (before ++ [last]) st rem) : BusyAgrees st last := by
  obtain ⟨before', last', hp, -, -, h⟩ := h
  obtain rfl : last = last' := by simpa using (List.append_inj' hp rfl).2
  rcases h with ⟨hb, rfl, -⟩ | ⟨hb, -, rfl, -⟩
  · exact ⟨fun _ => hb, nofun⟩
  · exact ⟨nofun, fun _ => hb⟩

/-- The status of a busy-wait agrees with the byte it leaves in slot 1 (R205). -/
theorem State.wait_busyAgrees (s : State) (ms : Nat) :
    BusyAgrees (s.wait ms).1.1 (s.wait ms).2.sr1 := by
  obtain ⟨_, _, _, _, _, -, hw, he⟩ := s.wait_spec ms
  rw [he]
  exact busyAgrees_of_waitsAs hw

/-- A busy-wait writes no register but slot 1 (R205). -/
theorem RegsKept.wait {s u : State} {k1 k2 k3 : Option Byte} (h : RegsKept (s.cache k1 k2 k3) u) (ms : Nat) :
    RegsKept (s.cache (some (u.wait ms).2.sr1) k2 k3) (u.wait ms).2 := by
  obtain ⟨_, _, _, _, rfl⟩ := h
  obtain ⟨_, _, _, _, _, -, -, he⟩ := State.wait_spec _ ms
  rw [he]
  exact ⟨_, _, _, _, rfl⟩

/-! ### What an instruction writes -/

/-- What an initialization that went past its first checks leaves (R180 step 4, R182): the chip woken, and the
flag set only with the geometry in place and the status Ok. -/
def Started (t : State) : Prop :=
  t.pdCount = 0 ∧ t.powerMode = .idle ∧
    (t.initialized = false ∨ t.result.status = .ok ∧ GeometryHolds t)

/-- The registers of the Device Instance an instruction writes on the way from `s` to `t` (Table R36): cache
slots, the nesting counter with the power mode, or what an initialization writes. -/
inductive Effect (i : Instr) (s t : State) : Prop where
  | caches (k1 k2 k3 : Option Byte) (kept : RegsKept (s.cache k1 k2 k3) t)
      (slot1 : k1 = none ∨ endsInWait i = true ∨ i = .rdSr1)
      (slot2 : k2 = none ∨ i = .rdSr2 ∨ ∃ v, i = .wrSr2 v)
      (slot3 : k3 = none ∨ i = .rdSr3 ∨ ∃ v, i = .wrSr3 v)
      (busy : endsInWait i = true → BusyAgrees t.result.status t.sr1)
  | entered (instr : i = .enterPd) (below : s.pdCount ≠ Params.pdCountMax)
      (kept : RegsKept { s with
        pdCount := s.pdCount + 1
        powerMode := if s.pdCount = 0 then .deepPowerDown else s.powerMode } t)
  | released (instr : i = .exitPd) (above : s.pdCount ≠ 0)
      (kept : RegsKept { s with
        pdCount := s.pdCount - 1
        powerMode := if s.pdCount - 1 = 0 then .idle else s.powerMode } t)
  | started (instr : i = .init ∨ ∃ bc, i = .initNoid bc) (fresh : s.initialized = false) (after : Started t)

/-- An instruction that ends in no busy-wait may write no register. -/
theorem Effect.of_kept {i : Instr} {s t : State} (hi : endsInWait i = false) (h : RegsKept s t) :
    Effect i s t :=
  .caches none none none h (.inl rfl) (.inl rfl) (.inl rfl) (by simp [hi])

/-- An error kind raised before any event writes no register (R270). -/
theorem Effect.of_raise {i : Instr} {s t : State} {k : ErrorKind} (h : s.raise k = .next t)
    (hok : k ≠ .ok) (hfail : k ≠ .fail) : Effect i s t := by
  injection h with h
  subst h
  exact .caches none none none ((RegsKept.refl s).finish _) (.inl rfl) (.inl rfl) (.inl rfl)
    fun _ => ⟨fun h => absurd h hok, fun h => absurd h hfail⟩

/-- The result record alone is written. -/
theorem Effect.of_finish {i : Instr} {s t : State} {r : Result} (h : (.next (s.finish r) : Out) = .next t)
    (hi : endsInWait i = false) : Effect i s t := by
  injection h with h
  subst h
  exact .of_kept hi ((RegsKept.refl s).finish r)

theorem Effect.of_gate {i : Instr} {s t : State} {k : State → Out} (h : gate s k = .next t)
    (hk : k s = .next t → Effect i s t) : Effect i s t := by
  rcases gate_next h with ⟨-, h⟩ | ⟨-, h⟩
  · exact hk h
  · exact .of_raise (congrArg Host.Outcome.next h.symm) (by decide) (by decide)

theorem Effect.of_gate_withLock {i : Instr} {s t : State} {k : State → Out}
    (h : gate s (fun s => withLock s k) = .next t) (hk : k s.takeLock = .next t → Effect i s t) :
    Effect i s t :=
  .of_gate h fun h => hk (withLock_next h).2

/-- One frame outside a lock bracket. -/
theorem Effect.of_frame {i : Instr} {s t : State} {bytes : List Byte} {n : Nat} {r : Result}
    (h : (.next ((s.frame bytes n).2.finish r) : Out) = .next t) (hi : endsInWait i = false) :
    Effect i s t := by
  injection h with h
  subst h
  exact .of_kept hi (((RegsKept.refl s).frame bytes n).finish r)

/-- One frame in the lock bracket. -/
theorem Effect.of_locked_frame {i : Instr} {s t : State} {bytes : List Byte} {n : Nat} {r : Result}
    (h : (.next ((s.takeLock.frame bytes n).2.dropLock.finish r) : Out) = .next t)
    (hi : endsInWait i = false) : Effect i s t := by
  injection h with h
  subst h
  exact .of_kept hi (((RegsKept.refl s).takeLock.frame bytes n).dropLock.finish r)

/-- An operation that ends in its busy-wait. -/
theorem Effect.of_endWait {i : Instr} {s t : State} {w : (ErrorKind × Nat) × State}
    {k1 k2 k3 : Option Byte} (h : endWait w = .next t) (hi : endsInWait i = true)
    (kept : RegsKept (s.cache k1 k2 k3) w.2) (busy : BusyAgrees w.1.1 w.2.sr1)
    (slot2 : k2 = none ∨ i = .rdSr2 ∨ ∃ v, i = .wrSr2 v)
    (slot3 : k3 = none ∨ i = .rdSr3 ∨ ∃ v, i = .wrSr3 v) : Effect i s t := by
  injection h with h
  subst h
  refine .caches k1 k2 k3 (kept.dropLock.finish _) (.inr (.inl hi)) slot2 slot3 fun _ => ?_
  rw [State.finish_sr1, State.dropLock_sr1]
  exact busy

/-- The mutating template writes slot 1, and what its command writes to slots 2 and 3 (R211). -/
theorem Effect.of_mutating {i : Instr} {s t : State} {cmd : State → State} {bytes : List Byte} {ms : Nat}
    (h : mutating cmd ms s = .next t) (hi : endsInWait i = true) (k1 k2 k3 : Option Byte)
    (hc : ∀ u, cmd u = (u.sendFrame bytes).cache k1 k2 k3)
    (slot2 : k2 = none ∨ i = .rdSr2 ∨ ∃ v, i = .wrSr2 v)
    (slot3 : k3 = none ∨ i = .rdSr3 ∨ ∃ v, i = .wrSr3 v) : Effect i s t := by
  replace h := (withLock_next h).2
  have kept : RegsKept (s.cache k1 k2 k3) (cmd s.takeLock.cmdWren) := by
    rw [hc]
    exact (((RegsKept.refl s).takeLock.frame [0x06] 0).frame bytes 0).cache k1 k2 k3
  exact .of_endWait h hi (kept.wait ms) (State.wait_busyAgrees _ ms) slot2 slot3

/-- An addressed erase (R240, R244). -/
theorem Effect.of_erase {i : Instr} {s t : State} {cmd : State → Addr → State} {op : Byte} {ms : Nat}
    {ea : State → Nat} (h : gate s (fun s => eraseAt cmd ms (ea s) s) = .next t) (hi : endsInWait i = true)
    (hc : ∀ u a, cmd u a = u.sendFrame (op :: addrBytes a)) : Effect i s t := by
  refine .of_gate h fun h => ?_
  unfold eraseAt at h
  split at h
  · exact .of_raise h (by decide) (by decide)
  · exact .of_mutating h hi none none none (fun u => (hc u _).trans (State.cache_none _).symm) (.inl rfl)
      (.inl rfl)

/-- A conversion writes no register (R171). -/
theorem Effect.of_convert {i : Instr} {s t : State} {index : Word} {f g : State → Word}
    (h : convert index f g s = .next t) (hi : endsInWait i = false) : Effect i s t := by
  refine .of_gate h fun h => ?_
  injection h with h
  subst h
  exact .of_kept hi ((RegsKept.refl s).finish _)

/-! ### The operations with a shape of their own -/

theorem execPoll_effect {budget : Word} {s t : State} (h : execPoll budget s = .next t) :
    Effect (.poll budget) s t := by
  unfold execPoll at h
  split at h
  · injection h with h
    subst h
    exact .caches _ none none (((RegsKept.refl s).cache_none.wait _).finish _) (.inr (.inl rfl))
      (.inl rfl) (.inl rfl) fun _ => State.wait_busyAgrees s _
  · exact .of_raise h (by decide) (by decide)

theorem execWaitBusy_effect {budget : Word} {s t : State} (h : execWaitBusy budget s = .next t) :
    Effect (.waitBusy budget) s t := by
  refine .of_gate h fun h => ?_
  split at h
  · exact .of_endWait (withLock_next h).2 rfl ((RegsKept.refl s).takeLock.cache_none.wait _)
      (State.wait_busyAgrees _ _) (.inl rfl) (.inl rfl)
  · exact .of_raise h (by decide) (by decide)

theorem execRead_effect {unit : AddrUnit} {index offset len : Word} {s t : State}
    (h : execRead unit index offset len s = .next t) : Effect (.read unit index offset len) s t := by
  refine .of_gate h fun h => ?_
  simp only at h
  split at h
  · exact .of_raise h (by decide) (by decide)
  · split at h
    · exact .of_raise h (by decide) (by decide)
    · exact .of_locked_frame (withLock_next h).2 rfl

/-- The splitter's loop writes no register but slot 1, and fails on a busy byte in it only (R223, D20). -/
theorem writeLoop_regs (fuel a : Nat) (data : List Byte) {s u : State} {k1 : Option Byte}
    (h : RegsKept (s.cache k1 none none) u) :
    (∃ k1, RegsKept (s.cache k1 none none) (writeLoop fuel a data u).2) ∧
      ((writeLoop fuel a data u).1 = .fail → (writeLoop fuel a data u).2.sr1.getLsbD 0 = true) := by
  induction fuel generalizing a data u k1 with
  | zero => exact ⟨⟨_, h⟩, nofun⟩
  | succ fuel ih =>
    unfold writeLoop
    split
    · exact ⟨⟨_, h⟩, nofun⟩
    · have kept := RegsKept.wait ((h.frame [0x06] 0).frame
        (0x02 :: addrBytes (frameAddr a) ++ data.take (u.chunk a data.length)) 0) Params.tPpMs
      simp only
      split
      next hf => exact ⟨⟨_, kept⟩, fun _ => (State.wait_busyAgrees _ _).2 hf⟩
      next => exact ih _ _ kept

/-- The splitter with its final wait writes no register but slot 1, which agrees with its status (R223). -/
theorem State.program_regs (s : State) (ea : Nat) (data : List Byte) :
    (∃ k1, RegsKept (s.cache k1 none none) (s.program ea data).2) ∧
      BusyAgrees (s.program ea data).1.1 (s.program ea data).2.sr1 := by
  obtain ⟨⟨k1, kept⟩, busy⟩ := writeLoop_regs data.length ea data (RegsKept.refl s).cache_none
  unfold State.program
  simp only
  split
  next hf => exact ⟨⟨k1, kept⟩, nofun, fun _ => busy hf⟩
  next => exact ⟨⟨_, kept.wait _⟩, State.wait_busyAgrees _ _⟩

theorem execWrite_effect {unit : AddrUnit} {index offset len : Word} {data : List Byte} {s t : State}
    (h : execWrite unit index offset len data s = .next t) : Effect (.write unit index offset len data) s t := by
  refine .of_gate h fun h => ?_
  simp only at h
  split at h
  · exact .of_raise h (by decide) (by decide)
  · split at h
    · exact .of_raise h (by decide) (by decide)
    · obtain ⟨⟨k1, kept⟩, busy⟩ := s.takeLock.program_regs (s.effAddr unit index offset) data
      have lock := (RegsKept.refl s).takeLock.cache k1 none none
      exact .of_endWait (withLock_next h).2 rfl (lock.trans kept) busy (.inl rfl) (.inl rfl)

theorem execIsEmpty_effect {unit : AddrUnit} {index offset len : Word} {s t : State}
    (h : execIsEmpty unit index offset len s = .next t) : Effect (.isEmpty unit index offset len) s t := by
  refine .of_gate h fun h => ?_
  simp only at h
  split at h
  · exact .of_raise h (by decide) (by decide)
  · split at h
    · exact .of_raise h (by decide) (by decide)
    · split at h
      · obtain ⟨_, _, _, _, hs, -, -⟩ :=
          scanLoop_spec len.toNat (s.effAddr unit index offset) len.toNat s (Nat.le_refl _)
        rw [hs] at h
        injection h with h
        subst h
        exact .of_kept rfl ⟨_, _, _, _, rfl⟩
      · cases h

/-! ### The status-register reads -/

theorem execRdSr1_effect {s t : State} (h : execRdSr1 s = .next t) : Effect .rdSr1 s t := by
  refine .of_gate_withLock h fun h => ?_
  injection h with h
  subst h
  exact .caches (some _) none none
    ((((RegsKept.refl s).takeLock.frame [0x05] 1).cache (some _) none none).dropLock.finish _)
    (.inr (.inr rfl)) (.inl rfl) (.inl rfl) nofun

theorem execRdSr2_effect {s t : State} (h : execRdSr2 s = .next t) : Effect .rdSr2 s t := by
  refine .of_gate_withLock h fun h => ?_
  injection h with h
  subst h
  exact .caches none (some _) none
    ((((RegsKept.refl s).takeLock.frame [0x35] 1).cache none (some _) none).dropLock.finish _)
    (.inl rfl) (.inr (.inl rfl)) (.inl rfl) nofun

theorem execRdSr3_effect {s t : State} (h : execRdSr3 s = .next t) : Effect .rdSr3 s t := by
  refine .of_gate_withLock h fun h => ?_
  injection h with h
  subst h
  exact .caches none none (some _)
    ((((RegsKept.refl s).takeLock.frame [0x15] 1).cache none none (some _)).dropLock.finish _)
    (.inl rfl) (.inl rfl) (.inr (.inl rfl)) nofun

/-! ### The power-down state machine -/

theorem execEnterPd_effect {s t : State} (h : execEnterPd s = .next t) : Effect .enterPd s t := by
  refine .of_gate_withLock h fun h => ?_
  rw [State.takeLock_pdCount] at h
  split at h
  next =>
    injection h with h
    subst h
    exact .of_kept rfl ((RegsKept.refl s).takeLock.dropLock.finish _)
  next hc =>
    simp only [Host.Outcome.next.injEq] at h
    split at h <;> subst h <;> refine .entered rfl hc (RegsKept.finish (RegsKept.dropLock ?_) _)
    next h0 =>
      rw [if_pos h0, State.cmdDpd, State.sendFrame_spec, State.takeLock_spec]
      exact ⟨_, _, _, _, rfl⟩
    next h0 =>
      rw [if_neg h0, State.takeLock_spec]
      exact ⟨_, _, _, _, rfl⟩

theorem execExitPd_effect {s t : State} (h : execExitPd s = .next t) : Effect .exitPd s t := by
  refine .of_gate_withLock h fun h => ?_
  simp only [State.releasePd, State.takeLock_pdCount, Host.Outcome.next.injEq] at h
  split at h
  next =>
    subst h
    exact .of_kept rfl ((RegsKept.refl s).takeLock.dropLock.finish _)
  next hc =>
    split at h <;> subst h <;> refine .released rfl hc (RegsKept.finish (RegsKept.dropLock ?_) _)
    next h0 =>
      rw [if_pos h0, State.cmdRdp, State.sendFrame_spec, State.takeLock_spec]
      exact ⟨_, _, _, _, rfl⟩
    next h0 =>
      rw [if_neg h0, State.takeLock_spec]
      exact ⟨_, _, _, _, rfl⟩

/-! ### Initialization -/

/-- Steps 11 to 14 of R180 put the geometry in place (R23, R153). -/
theorem State.complete_started {s : State} {bc : Nat} (hb : blockCountFits bc = true) (hp : s.pdCount = 0)
    (hm : s.powerMode = .idle) : Started (s.complete bc) := by
  rw [blockCountFits_iff] at hb
  rw [State.complete_spec]
  refine ⟨hp, hm, .inr ⟨rfl, ?_⟩⟩
  simp only [GeometryHolds, BitVec.toNat_ofNat, BitVec.reduceToNat, true_and]
  omega

/-- Steps 3 to 7 of R180 end without a chip, or go on with the chip woken and the flag still clear. -/
theorem Effect.of_identify {i : Instr} {s t : State} {k : JedecId → State → Out}
    (hi : i = .init ∨ ∃ bc, i = .initNoid bc) (h0 : ¬ s.initialized = true) (h : identify s k = .next t)
    (hk : ∀ id u, k id u = .next t → u.pdCount = 0 → u.powerMode = .idle → u.initialized = false →
      Started t) :
    Effect i s t := by
  replace h0 : s.initialized = false := by simpa using h0
  rw [identify_spec] at h
  refine .started hi h0 ?_
  simp only at h
  split at h
  · injection h with h
    subst h
    exact ⟨rfl, rfl, .inl h0⟩
  · exact hk _ _ h rfl rfl h0

theorem execInit_effect {s t : State} (h : execInit s = .next t) : Effect .init s t := by
  unfold execInit at h
  split at h
  next => exact .of_raise h (by decide) (by decide)
  split at h
  next =>
    injection h with h
    subst h
    exact .of_kept rfl ((RegsKept.refl s).finish _)
  next h0 =>
  refine .of_identify (.inl rfl) h0 h fun id u h hp hm hi => ?_
  rw [State.readUid_spec] at h
  simp only at h
  split at h
  next =>
    injection h with h
    subst h
    exact ⟨hp, hm, .inl hi⟩
  split at h
  next hb =>
    injection h with h
    subst h
    exact State.complete_started hb hp hm
  next =>
    injection h with h
    subst h
    exact ⟨hp, hm, .inl hi⟩

theorem execInitNoid_effect {bc : Word} {s t : State} (h : execInitNoid bc s = .next t) :
    Effect (.initNoid bc) s t := by
  unfold execInitNoid at h
  split at h
  next => exact .of_raise h (by decide) (by decide)
  split at h
  next => exact .of_raise h (by decide) (by decide)
  next hb =>
  split at h
  next =>
    injection h with h
    subst h
    exact .of_kept rfl ((RegsKept.refl s).finish _)
  next h0 =>
  refine .of_identify (.inr ⟨bc, rfl⟩) h0 h fun id u h hp hm hi => ?_
  injection h with h
  subst h
  rw [State.readUid_spec]
  exact State.complete_started (by simpa using hb) hp hm

/-! ### Every instruction -/

/-- Every instruction that ends in a next state writes what `Effect` gives it (Table R36). -/
theorem exec_effect {i : Instr} {s t : State} (h : exec i s = .next t) : Effect i s t := by
  cases i with
  | wren => exact .of_frame (bytes := [0x06]) (n := 0) h rfl
  | wrdi => exact .of_frame (bytes := [0x04]) (n := 0) h rfl
  | rdp => exact .of_frame (bytes := [0xAB]) (n := 0) h rfl
  | dpd => exact .of_frame (bytes := [0xB9]) (n := 0) h rfl
  | rdid => exact .of_frame (bytes := [0x9F]) (n := 3) h rfl
  | ruid => exact .of_frame (bytes := [0x4B, 0, 0, 0, 0]) (n := 8) h rfl
  | fread a n => exact .of_frame (bytes := 0x0B :: addrBytes a ++ [0]) (n := n) h rfl
  | pp a p => exact .of_frame (bytes := 0x02 :: addrBytes a ++ p) (n := 0) h rfl
  | se a => exact .of_frame (bytes := 0x20 :: addrBytes a) (n := 0) h rfl
  | be32 a => exact .of_frame (bytes := 0x52 :: addrBytes a) (n := 0) h rfl
  | be64 a => exact .of_frame (bytes := 0xD8 :: addrBytes a) (n := 0) h rfl
  | ce => exact .of_frame (bytes := [0xC7]) (n := 0) h rfl
  | rdsr1 => exact .of_frame (bytes := [0x05]) (n := 1) h rfl
  | rdsr2 => exact .of_frame (bytes := [0x35]) (n := 1) h rfl
  | rdsr3 => exact .of_frame (bytes := [0x15]) (n := 1) h rfl
  | wrsr1 v => exact .of_frame (bytes := [0x01, v]) (n := 0) h rfl
  | wrsr2 v => exact .of_frame (bytes := [0x31, v]) (n := 0) h rfl
  | wrsr3 v => exact .of_frame (bytes := [0x11, v]) (n := 0) h rfl
  | poll => exact execPoll_effect h
  | init => exact execInit_effect h
  | initNoid => exact execInitNoid_effect h
  | enterPd => exact execEnterPd_effect h
  | exitPd => exact execExitPd_effect h
  | read => exact execRead_effect h
  | write => exact execWrite_effect h
  | erase4k u i o =>
    exact .of_erase (cmd := State.cmdSe) (ms := Params.tSe4kMs) (ea := fun s => s.effAddr u i o) h rfl
      fun _ _ => rfl
  | erase32k u i o =>
    exact .of_erase (cmd := State.cmdBe32) (ms := Params.tBe32kMs) (ea := fun s => s.effAddr u i o) h rfl
      fun _ _ => rfl
  | erase64k u i o =>
    exact .of_erase (cmd := State.cmdBe64) (ms := Params.tBe64kMs) (ea := fun s => s.effAddr u i o) h rfl
      fun _ _ => rfl
  | eraseChip =>
    exact .of_gate h fun h =>
      .of_mutating h rfl none none none (fun _ => (State.cache_none _).symm) (.inl rfl) (.inl rfl)
  | isEmpty => exact execIsEmpty_effect h
  | rdSr1 => exact execRdSr1_effect h
  | rdSr2 => exact execRdSr2_effect h
  | rdSr3 => exact execRdSr3_effect h
  | wrSr1 v =>
    exact .of_gate h fun h => .of_mutating h rfl (some v) none none (fun _ => rfl) (.inl rfl) (.inl rfl)
  | wrSr2 v =>
    exact .of_gate h fun h =>
      .of_mutating h rfl none (some v) none (fun _ => rfl) (.inr (.inr ⟨v, rfl⟩)) (.inl rfl)
  | wrSr3 v =>
    exact .of_gate h fun h =>
      .of_mutating h rfl none none (some v) (fun _ => rfl) (.inl rfl) (.inr (.inr ⟨v, rfl⟩))
  | writeEnable => exact .of_gate_withLock h fun h => .of_locked_frame (bytes := [0x06]) (n := 0) h rfl
  | writeDisable => exact .of_gate_withLock h fun h => .of_locked_frame (bytes := [0x04]) (n := 0) h rfl
  | waitBusy => exact execWaitBusy_effect h
  | rdJedec => exact .of_gate_withLock h fun h => .of_locked_frame (bytes := [0x9F]) (n := 3) h rfl
  | rdUid =>
    exact .of_gate_withLock h fun h => .of_locked_frame (bytes := [0x4B, 0, 0, 0, 0]) (n := 8) h rfl
  | pageToSector => exact .of_convert h rfl
  | pageToBlock => exact .of_convert h rfl
  | sectorToBlock => exact .of_convert h rfl
  | sectorToPage => exact .of_convert h rfl
  | blockToPage => exact .of_convert h rfl
  | blockToSector => exact .of_convert h rfl
  | idManufacturer => exact .of_finish h rfl
  | idModel => exact .of_finish h rfl
  | idBlockcount => exact .of_finish h rfl

end Sys2Proof.Machine
end

section
/-! SUPPORT. The statements about what a step leaves of the block's own state, from `Effect` and `Ran`. -/

namespace Sys2Proof.Machine

open Safety

/-! ### The step -/

/-- Everything a step that gives a next state can do: wait, reset, run an instruction, or reject a reserved
op_sel (R31, R90, R300, R301). -/
theorem step_cases {s t : State} (h : step s = .next t) :
    s.seq = .idle ∧
      ((s.port = [] ∧ t = s) ∨
        ∃ rest, t = { s.hardReset with port := rest } ∨
          (∃ i, exec i { s with port := rest, seq := .run i } = .next t) ∨
          t = { s with port := rest }.finish (Result.ofStatus .invalidParameters)) := by
  unfold step at h
  split at h
  next => cases h
  next => cases h
  next hq hp =>
    injection h with h
    exact ⟨hq, .inl ⟨hp, h.symm⟩⟩
  next rest hq _ =>
    injection h with h
    exact ⟨hq, .inr ⟨rest, .inl h.symm⟩⟩
  next r rest hq _ =>
    refine ⟨hq, .inr ⟨rest, .inr ?_⟩⟩
    split at h
    next i _ => exact .inl ⟨i, h⟩
    next e _ =>
      cases e with
      | reservedOpSel =>
        injection h with h
        exact .inr h.symm
      | unknownOpcode => cases h
      | badFrame => cases h

/-! ### The block's invariant -/

/-- Every instruction keeps the geometry invariant wherever the block is initialized (R23). -/
theorem exec_keeps_geometry {i : Instr} {s t : State} (h : exec i s = .next t)
    (hg : s.initialized = true → GeometryHolds s) : t.initialized = true → GeometryHolds t := by
  cases exec_effect h with
  | caches _ _ _ kept => rw [kept.initialized_eq, kept.geometryHolds_iff]; exact hg
  | entered _ _ kept => rw [kept.initialized_eq, kept.geometryHolds_iff]; exact hg
  | released _ _ kept => rw [kept.initialized_eq, kept.geometryHolds_iff]; exact hg
  | started _ _ after =>
    obtain ⟨-, -, hc | ⟨-, hc⟩⟩ := after
    · simp [hc]
    · exact fun _ => hc

/-- ENTER_PD below the counter's maximum leaves a counter above 0 (R195). -/
theorem pdCount_succ_pos {c : Word} (hc : c ≠ Params.pdCountMax) : 0 < (c + 1).toNat := by
  simp only [Params.pdCountMax] at hc
  bv_omega

/-- Every instruction keeps the agreement of the power mode with the nesting counter (R30, R197). -/
theorem exec_keeps_power {i : Instr} {s t : State} (h : exec i s = .next t) (hp : PowerHolds s) :
    PowerHolds t := by
  cases exec_effect h with
  | caches _ _ _ kept => exact kept.powerHolds_iff.mpr hp
  | entered _ below kept =>
    have pos := pdCount_succ_pos below
    refine kept.powerHolds_iff.mpr ?_
    unfold PowerHolds at hp ⊢
    by_cases h0 : s.pdCount = 0
    · rw [if_pos h0]
      exact iff_of_true rfl pos
    · rw [if_neg h0]
      exact iff_of_true (hp.mpr (by bv_omega)) pos
  | released _ above kept =>
    refine kept.powerHolds_iff.mpr ?_
    unfold PowerHolds at hp ⊢
    by_cases h0 : s.pdCount - 1 = 0
    · rw [if_pos h0, h0]
      exact iff_of_false nofun (Nat.lt_irrefl 0)
    · rw [if_neg h0]
      exact iff_of_true (hp.mpr (by bv_omega)) (by bv_omega)
  | started _ _ after =>
    obtain ⟨hc, hm, -⟩ := after
    simp [PowerHolds, hc, hm]

/-- Settles O13: the registers by the effect of the instruction that ran, SEQ by its end. -/
theorem blockInvKept : Obligations.BlockInvKept := by
  unfold Obligations.BlockInvKept
  intro s t ⟨geometry, power, idle⟩ h
  obtain ⟨-, ⟨-, rfl⟩ | ⟨rest, rfl | ⟨i, h⟩ | rfl⟩⟩ := step_cases h
  · exact ⟨geometry, power, idle⟩
  · exact ⟨nofun, by simp [PowerHolds, State.hardReset], rfl⟩
  · obtain ⟨_, ran, -⟩ := exec_ran i h
    exact ⟨exec_keeps_geometry h geometry, exec_keeps_power h power, ran.seq⟩
  · exact ⟨geometry, power, rfl⟩

/-- No instruction changes the flag but an initialization of a block where it is clear, and that one sets it
with status Ok only (R26, R182). -/
theorem exec_initialized {i : Instr} {s t : State} (h : exec i s = .next t) :
    t.initialized = s.initialized ∨
      s.initialized = false ∧ initializes i = true ∧ (t.initialized = false ∨ t.result.status = .ok) := by
  cases exec_effect h with
  | caches _ _ _ kept => exact .inl kept.initialized_eq
  | entered _ _ kept => exact .inl kept.initialized_eq
  | released _ _ kept => exact .inl kept.initialized_eq
  | started instr fresh after =>
    obtain ⟨-, -, ending⟩ := after
    refine .inr ⟨fresh, ?_, ending.imp_right And.left⟩
    rcases instr with rfl | ⟨_, rfl⟩ <;> rfl

/-- Settles O17: the flag is kept, or it was clear and an initialization ended. -/
theorem initializedMonotone : Obligations.InitializedMonotone := by
  unfold Obligations.InitializedMonotone
  intro i s t h
  rcases exec_initialized h with same | ⟨fresh, initializing, ending⟩
  · simp +contextual [same]
  · refine ⟨by simp [fresh], fun _ set => ⟨initializing, ending.resolve_left ?_⟩⟩
    simp [set]

/-- Settles O18: the clauses of Table R36 are read off the effect of the instruction. -/
theorem accessTable : Obligations.AccessTable := by
  unfold Obligations.AccessTable
  intro i s t h
  cases exec_effect h with
  | caches k1 k2 k3 kept slot1 slot2 slot3 =>
    obtain ⟨_, _, _, _, rfl⟩ := kept
    refine ⟨fun _ => ⟨rfl, rfl, rfl, rfl, rfl, rfl, rfl, rfl, rfl, rfl, rfl, rfl⟩, fun _ _ _ => ⟨rfl, rfl⟩,
      fun _ hw hr => ?_, fun _ hr hw => ?_, fun _ hr hw => ?_⟩
    · rcases slot1 with rfl | h | h
      · rfl
      · simp [hw] at h
      · exact absurd h hr
    · rcases slot2 with rfl | h | ⟨v, h⟩
      · rfl
      · exact absurd h hr
      · exact absurd h (hw v)
    · rcases slot3 with rfl | h | ⟨v, h⟩
      · rfl
      · exact absurd h hr
      · exact absurd h (hw v)
  | entered instr _ kept =>
    obtain ⟨_, _, _, _, rfl⟩ := kept
    exact ⟨fun _ => ⟨rfl, rfl, rfl, rfl, rfl, rfl, rfl, rfl, rfl, rfl, rfl, rfl⟩,
      fun _ he => absurd instr he, fun _ _ _ => rfl, fun _ _ _ => rfl, fun _ _ _ => rfl⟩
  | released instr _ kept =>
    obtain ⟨_, _, _, _, rfl⟩ := kept
    exact ⟨fun _ => ⟨rfl, rfl, rfl, rfl, rfl, rfl, rfl, rfl, rfl, rfl, rfl, rfl⟩,
      fun _ _ he => absurd instr he, fun _ _ _ => rfl, fun _ _ _ => rfl, fun _ _ _ => rfl⟩
  | started instr =>
    have hi : initializes i ≠ false := by rcases instr with rfl | ⟨_, rfl⟩ <;> nofun
    exact ⟨fun h => absurd h hi, fun h => absurd h hi, fun h => absurd h hi, fun h => absurd h hi,
      fun h => absurd h hi⟩

/-- Settles O19: an instruction keeps the configuration and appends its events; waiting, a reset and a
rejected op_sel emit none. -/
theorem configurationKept : Obligations.ConfigurationKept := by
  unfold Obligations.ConfigurationKept
  intro s t h
  obtain ⟨-, ⟨-, rfl⟩ | ⟨rest, rfl | ⟨i, h⟩ | rfl⟩⟩ := step_cases h
  · exact ⟨rfl, List.prefix_rfl⟩
  · exact ⟨rfl, List.prefix_rfl⟩
  · obtain ⟨_, ran, -⟩ := exec_ran i h
    exact ⟨ran.config, ran.trace ▸ List.prefix_append _ _⟩
  · exact ⟨rfl, List.prefix_rfl⟩

/-- The two flags of a status byte as bits of its value (R91). -/
theorem flags_toNat (v : Byte) :
    busyFlag v = decide (v.toNat % 2 = 1) ∧ welFlag v = decide (v.toNat / 2 % 2 = 1) := by
  simp only [busyFlag, welFlag, ← BitVec.testBit_toNat, Nat.testBit_eq_decide_div_mod_eq, Nat.pow_zero,
    Nat.pow_one, Nat.div_one, and_self]

/-- Settles O48: what an operation that waits leaves in slot 1 agrees with its status. -/
theorem cachedBusyBit : Obligations.CachedBusyBit := by
  unfold Obligations.CachedBusyBit
  refine ⟨flags_toNat, fun i s t hw h => ?_⟩
  cases exec_effect h with
  | caches _ _ _ _ _ _ _ busy => exact busy hw
  | entered instr => subst instr; cases hw
  | released instr => subst instr; cases hw
  | started instr => rcases instr with rfl | ⟨_, rfl⟩ <;> cases hw

end Sys2Proof.Machine
end

section
/-! SUPPORT. The status cache and the power mode decide nothing (R27, R30): two states that agree on everything
else go through every shared operation alike, and so through every instruction. -/

namespace Sys2Proof.Safety

open Machine

/-! ### Agreeing on everything but the caches -/

/-- A state with other caches: the three slots and the power mode replaced. -/
def withCaches (s : State) (v1 v2 v3 : Byte) (p : PowerMode) : State :=
  { s with sr1 := v1, sr2 := v2, sr3 := v3, powerMode := p }

theorem sameButCaches_iff {s t : State} : SameButCaches s t ↔ ∃ v1 v2 v3 p, t = withCaches s v1 v2 v3 p := by
  refine ⟨fun h => ⟨_, _, _, _, h⟩, ?_⟩
  rintro ⟨v1, v2, v3, p, rfl⟩
  rfl

/-- Two runs that return the same and leave states that agree on everything but the caches. -/
def SameRun {α : Type} (x y : α × State) : Prop := x.1 = y.1 ∧ SameButCaches x.2 y.2

/-- A test that both sides decide alike. -/
theorem rel_ite {α : Type} {R : α → α → Prop} {c c' : Prop} [Decidable c] [Decidable c'] {a b a' b' : α}
    (hc : c ↔ c') (ha : c → R a a') (hb : ¬ c → R b b') : R (if c then a else b) (if c' then a' else b') := by
  by_cases h : c
  · simpa only [if_pos h, if_pos (hc.mp h)] using ha h
  · simpa only [if_neg h, if_neg (mt hc.mpr h)] using hb h

section
variable {s t : State} (h : SameButCaches s t)
include h

/-! ### The shared operations -/

theorem SameButCaches.withCaches (v1 v2 v3 w1 w2 w3 : Byte) (p q : PowerMode) :
    SameButCaches (withCaches s v1 v2 v3 p) (withCaches t w1 w2 w3 q) := by
  obtain ⟨_, _, _, _, rfl⟩ := sameButCaches_iff.mp h
  rfl

theorem SameButCaches.withPowerMode (p : PowerMode) :
    SameButCaches { s with powerMode := p } { t with powerMode := p } := by
  obtain ⟨_, _, _, _, rfl⟩ := sameButCaches_iff.mp h
  rfl

theorem SameButCaches.finish (r : Result) : SameButCaches (s.finish r) (t.finish r) := by
  obtain ⟨_, _, _, _, rfl⟩ := sameButCaches_iff.mp h
  rfl

/-- A result record that depends on the configuration alone. -/
theorem SameButCaches.finish_config (r : Config → Result) :
    SameButCaches (s.finish (r s.config)) (t.finish (r t.config)) := by
  obtain ⟨_, _, _, _, rfl⟩ := sameButCaches_iff.mp h
  rfl

theorem SameButCaches.pageSize_eq : s.pageSize = t.pageSize := by
  obtain ⟨_, _, _, _, rfl⟩ := sameButCaches_iff.mp h
  rfl

theorem SameButCaches.sectorSize_eq : s.sectorSize = t.sectorSize := by
  obtain ⟨_, _, _, _, rfl⟩ := sameButCaches_iff.mp h
  rfl

theorem SameButCaches.blockSize_eq : s.blockSize = t.blockSize := by
  obtain ⟨_, _, _, _, rfl⟩ := sameButCaches_iff.mp h
  rfl

theorem SameButCaches.takeLock : SameButCaches s.takeLock t.takeLock := by
  obtain ⟨_, _, _, _, rfl⟩ := sameButCaches_iff.mp h
  rw [State.takeLock_spec, State.takeLock_spec]
  rfl

theorem SameButCaches.dropLock : SameButCaches s.dropLock t.dropLock := by
  obtain ⟨_, _, _, _, rfl⟩ := sameButCaches_iff.mp h
  rw [State.dropLock_spec, State.dropLock_spec]
  rfl

theorem SameButCaches.csHigh : SameButCaches s.csHigh t.csHigh := by
  obtain ⟨_, _, _, _, rfl⟩ := sameButCaches_iff.mp h
  rfl

theorem SameButCaches.frame (bytes : List Byte) (n : Nat) : SameRun (s.frame bytes n) (t.frame bytes n) := by
  obtain ⟨_, _, _, _, rfl⟩ := sameButCaches_iff.mp h
  rw [State.frame_spec, State.frame_spec]
  exact ⟨rfl, rfl⟩

/-- The polls of a busy-wait go alike: each writes slot 1 and reads none (R205). -/
theorem SameButCaches.waitLoop (fuel ctr : Nat) :
    SameRun (Machine.waitLoop fuel ctr s) (Machine.waitLoop fuel ctr t) := by
  induction fuel generalizing ctr s t with
  | zero => exact ⟨rfl, h⟩
  | succ fuel ih =>
    obtain ⟨_, _, _, _, rfl⟩ := sameButCaches_iff.mp h
    rw [waitLoop_succ, waitLoop_succ]
    exact rel_ite .rfl (fun _ => ⟨rfl, rfl⟩) fun _ => rel_ite .rfl (fun _ => ⟨rfl, rfl⟩) fun _ =>
      ih (by rfl) _

theorem SameButCaches.wait (ms : Nat) : SameRun (s.wait ms) (t.wait ms) := by
  have opened : SameButCaches ((s.csLow.transmit [0x05]).receive 1).2 ((t.csLow.transmit [0x05]).receive 1).2 := by
    obtain ⟨_, _, _, _, rfl⟩ := sameButCaches_iff.mp h
    rfl
  obtain ⟨hr, hs⟩ := opened.waitLoop (ms * 1000 / Params.pollIntervalUs + 1) (ms * 1000)
  exact ⟨hr, hs.csHigh⟩

/-- The splitter's loop goes alike (R223). -/
theorem SameButCaches.writeLoop (fuel a : Nat) (data : List Byte) :
    SameRun (Machine.writeLoop fuel a data s) (Machine.writeLoop fuel a data t) := by
  induction fuel generalizing a data s t with
  | zero => exact ⟨rfl, h⟩
  | succ fuel ih =>
    have hchunk : s.chunk a data.length = t.chunk a data.length := by
      obtain ⟨_, _, _, _, rfl⟩ := sameButCaches_iff.mp h
      rfl
    have sent (payload : List Byte) : SameRun ((s.cmdWren.cmdPp (frameAddr a) payload).wait Params.tPpMs)
        ((t.cmdWren.cmdPp (frameAddr a) payload).wait Params.tPpMs) :=
      ((h.frame [0x06] 0).2.frame (0x02 :: addrBytes (frameAddr a) ++ payload) 0).2.wait _
    obtain ⟨hr, hs⟩ := sent (data.take (s.chunk a data.length))
    unfold Machine.writeLoop
    simp only
    rw [← hchunk]
    refine rel_ite .rfl (fun _ => ⟨rfl, h⟩) fun _ => ?_
    exact rel_ite (by rw [hr]) (fun _ => ⟨rfl, hs⟩) fun _ => ih hs _ _

theorem SameButCaches.program (ea : Nat) (data : List Byte) : SameRun (s.program ea data) (t.program ea data) := by
  obtain ⟨hr, hs⟩ := h.writeLoop data.length ea data
  unfold State.program
  exact rel_ite (by rw [hr]) (fun _ => ⟨rfl, hs⟩) fun _ => hs.wait _

/-- The scanner's loop goes alike (R265). -/
theorem SameButCaches.scanLoop (fuel a rem : Nat) :
    SameRun (Machine.scanLoop fuel a rem s) (Machine.scanLoop fuel a rem t) := by
  induction fuel generalizing a rem s t with
  | zero => exact ⟨rfl, h⟩
  | succ fuel ih =>
    have hsize : s.config.probeSize = t.config.probeSize := by
      obtain ⟨_, _, _, _, rfl⟩ := sameButCaches_iff.mp h
      rfl
    have probed (n : Nat) :
        SameRun (s.takeLock.cmdFread (frameAddr a) n) (t.takeLock.cmdFread (frameAddr a) n) :=
      h.takeLock.frame (0x0B :: addrBytes (frameAddr a) ++ [0x00]) n
    obtain ⟨hr, hs⟩ := probed (min s.config.probeSize rem)
    unfold Machine.scanLoop
    simp only
    rw [← hsize]
    refine rel_ite .rfl (fun _ => ⟨rfl, h⟩) fun _ => ?_
    exact rel_ite (by rw [hr]) (fun _ => ih hs.dropLock _ _) fun _ => ⟨rfl, hs.dropLock⟩

/-! ### Outcomes -/

theorem SameButCaches.raise (k : ErrorKind) : SameOutcome (s.raise k) (t.raise k) := h.finish _

theorem SameButCaches.gate {k k' : State → Out} (hk : SameOutcome (k s) (k' t)) :
    SameOutcome (Machine.gate s k) (Machine.gate t k') := by
  obtain ⟨_, _, _, _, rfl⟩ := sameButCaches_iff.mp h
  exact rel_ite .rfl (fun _ => hk) fun _ => h.raise _

theorem SameButCaches.withLock {k k' : State → Out} (hk : SameOutcome (k s.takeLock) (k' t.takeLock)) :
    SameOutcome (Machine.withLock s k) (Machine.withLock t k') := by
  obtain ⟨_, _, _, _, rfl⟩ := sameButCaches_iff.mp h
  exact rel_ite .rfl (fun _ => hk) fun _ => rfl

omit h in
/-- Operations that end alike in their busy-wait. -/
theorem SameRun.endWait {w w' : (ErrorKind × Nat) × State} (h : SameRun w w') :
    SameOutcome (Machine.endWait w) (Machine.endWait w') := by
  obtain ⟨hr, hs⟩ := h
  unfold Machine.endWait
  rw [hr]
  exact hs.dropLock.finish _

/-- One frame outside a lock bracket, and what it returned in the result record. -/
theorem SameButCaches.lone_frame (bytes : List Byte) (n : Nat) (f : List Byte → Result) :
    SameOutcome (.next ((s.frame bytes n).2.finish (f (s.frame bytes n).1)))
      (.next ((t.frame bytes n).2.finish (f (t.frame bytes n).1))) := by
  obtain ⟨hr, hs⟩ := h.frame bytes n
  rw [hr]
  exact hs.finish _

/-- One frame in the lock bracket, and what it returned in the result record. -/
theorem SameButCaches.locked_frame (bytes : List Byte) (n : Nat) (f : List Byte → Result) :
    SameOutcome (.next ((s.takeLock.frame bytes n).2.dropLock.finish (f (s.takeLock.frame bytes n).1)))
      (.next ((t.takeLock.frame bytes n).2.dropLock.finish (f (t.takeLock.frame bytes n).1))) := by
  obtain ⟨hr, hs⟩ := h.takeLock.frame bytes n
  rw [hr]
  exact hs.dropLock.finish _

/-- One frame in the lock bracket, after the gate. -/
theorem SameButCaches.gated_frame (bytes : List Byte) (n : Nat) (f : List Byte → Result) :
    SameOutcome
      (Machine.gate s fun s => Machine.withLock s fun s =>
        .next ((s.frame bytes n).2.dropLock.finish (f (s.frame bytes n).1)))
      (Machine.gate t fun s => Machine.withLock s fun s =>
        .next ((s.frame bytes n).2.dropLock.finish (f (s.frame bytes n).1))) := by
  refine h.gate ?_
  exact h.withLock (h.locked_frame bytes n f)

/-- The mutating template, for a command that goes alike (R211). -/
theorem SameButCaches.mutating {cmd : State → State} (ms : Nat)
    (hc : ∀ {u v : State}, SameButCaches u v → SameButCaches (cmd u) (cmd v)) :
    SameOutcome (Machine.mutating cmd ms s) (Machine.mutating cmd ms t) :=
  h.withLock ((hc (h.takeLock.frame [0x06] 0).2).wait ms).endWait

/-- An addressed erase (R240, R244). -/
theorem SameButCaches.erase {cmd : State → Addr → State} {op : Byte} (ms : Nat) (unit : AddrUnit)
    (index offset : Word) (hc : ∀ u a, cmd u a = u.sendFrame (op :: addrBytes a)) :
    SameOutcome (Machine.gate s fun s => eraseAt cmd ms (s.effAddr unit index offset) s)
      (Machine.gate t fun s => eraseAt cmd ms (s.effAddr unit index offset) s) := by
  have sent {u v : State} (h : SameButCaches u v) (a : Addr) : SameButCaches (cmd u a) (cmd v a) := by
    rw [hc, hc]
    exact (h.frame _ 0).2
  obtain ⟨_, _, _, _, rfl⟩ := sameButCaches_iff.mp h
  exact h.gate (rel_ite .rfl (fun _ => h.raise _) fun _ => h.mutating ms fun h => sent h _)

/-- A conversion (R171), between sizes that are no cache. -/
theorem SameButCaches.convert {f g : State → Word} (index : Word) (hf : f s = f t) (hg : g s = g t) :
    SameOutcome (Machine.convert index f g s) (Machine.convert index f g t) := by
  refine h.gate ?_
  simp only [hf, hg]
  exact h.finish _

/-! ### The operations with a shape of their own -/

theorem SameButCaches.execPoll (budget : Word) :
    SameOutcome (Machine.execPoll budget s) (Machine.execPoll budget t) := by
  obtain ⟨hr, hs⟩ := h.wait budget.toNat
  unfold Machine.execPoll
  simp only
  rw [hr]
  exact rel_ite .rfl (fun _ => hs.finish _) fun _ => h.raise _

theorem SameButCaches.execWaitBusy (budget : Word) :
    SameOutcome (Machine.execWaitBusy budget s) (Machine.execWaitBusy budget t) :=
  h.gate (rel_ite .rfl (fun _ => h.withLock (h.takeLock.wait _).endWait) fun _ => h.raise _)

theorem SameButCaches.execRead (unit : AddrUnit) (index offset len : Word) :
    SameOutcome (Machine.execRead unit index offset len s) (Machine.execRead unit index offset len t) := by
  obtain ⟨_, _, _, _, rfl⟩ := sameButCaches_iff.mp h
  exact h.gate (rel_ite .rfl (fun _ => h.raise _) fun _ => rel_ite .rfl (fun _ => h.raise _) fun _ =>
    h.withLock (h.locked_frame (0x0B :: addrBytes (frameAddr (s.effAddr unit index offset)) ++ [0x00])
      len.toNat Result.ofData))

theorem SameButCaches.execWrite (unit : AddrUnit) (index offset len : Word) (data : List Byte) :
    SameOutcome (Machine.execWrite unit index offset len data s)
      (Machine.execWrite unit index offset len data t) := by
  obtain ⟨_, _, _, _, rfl⟩ := sameButCaches_iff.mp h
  exact h.gate (rel_ite .rfl (fun _ => h.raise _) fun _ => rel_ite .rfl (fun _ => h.raise _) fun _ =>
    h.withLock (h.takeLock.program (s.effAddr unit index offset) data).endWait)

theorem SameButCaches.execIsEmpty (unit : AddrUnit) (index offset len : Word) :
    SameOutcome (Machine.execIsEmpty unit index offset len s)
      (Machine.execIsEmpty unit index offset len t) := by
  obtain ⟨hr, hs⟩ := h.scanLoop len.toNat (s.effAddr unit index offset) len.toNat
  obtain ⟨_, _, _, _, rfl⟩ := sameButCaches_iff.mp h
  refine h.gate (rel_ite .rfl (fun _ => h.raise _) fun _ => rel_ite .rfl (fun _ => h.raise _) fun _ =>
    rel_ite .rfl (fun _ => ?_) fun _ => rfl)
  simp only
  rw [hr]
  exact hs.raise _

theorem SameButCaches.execRdSr1 : SameOutcome (Machine.execRdSr1 s) (Machine.execRdSr1 t) := by
  obtain ⟨hr, hs⟩ := h.takeLock.frame [0x05] 1
  refine h.gate (h.withLock ?_)
  simp only [State.cmdRdsr1]
  rw [hr]
  exact (hs.withCaches ..).dropLock.finish _

theorem SameButCaches.execRdSr2 : SameOutcome (Machine.execRdSr2 s) (Machine.execRdSr2 t) := by
  obtain ⟨hr, hs⟩ := h.takeLock.frame [0x35] 1
  refine h.gate (h.withLock ?_)
  simp only [State.cmdRdsr2]
  rw [hr]
  exact (hs.withCaches ..).dropLock.finish _

theorem SameButCaches.execRdSr3 : SameOutcome (Machine.execRdSr3 s) (Machine.execRdSr3 t) := by
  obtain ⟨hr, hs⟩ := h.takeLock.frame [0x15] 1
  refine h.gate (h.withLock ?_)
  simp only [State.cmdRdsr3]
  rw [hr]
  exact (hs.withCaches ..).dropLock.finish _

/-! ### The power-down state machine -/

theorem SameButCaches.pdCount_eq : s.pdCount = t.pdCount := by
  obtain ⟨_, _, _, _, rfl⟩ := sameButCaches_iff.mp h
  rfl

theorem SameButCaches.mapPdCount (f : Word → Word) :
    SameButCaches { s with pdCount := f s.pdCount } { t with pdCount := f t.pdCount } := by
  obtain ⟨_, _, _, _, rfl⟩ := sameButCaches_iff.mp h
  rfl

/-- The counter alone decides ENTER_PD (R195). -/
theorem SameButCaches.execEnterPd : SameOutcome (Machine.execEnterPd s) (Machine.execEnterPd t) := by
  have lock := h.takeLock
  refine h.gate (h.withLock ?_)
  refine rel_ite (by rw [lock.pdCount_eq]) (fun _ => lock.dropLock.raise _) fun _ => ?_
  have entered := rel_ite (R := SameButCaches) (by rw [lock.pdCount_eq])
    (fun _ : s.takeLock.pdCount = 0 => (lock.frame [0xB9] 0).2.withPowerMode .deepPowerDown)
    fun _ => lock
  exact (entered.mapPdCount (· + 1)).dropLock.finish _

/-- The counter alone decides EXIT_PD (R196). -/
theorem SameButCaches.releasePd : SameButCaches s.releasePd t.releasePd := by
  have counted := h.mapPdCount (· - 1)
  refine rel_ite (by rw [h.pdCount_eq]) (fun _ => h) fun _ => ?_
  exact rel_ite (by rw [counted.pdCount_eq])
    (fun _ => (counted.frame [0xAB] 0).2.withPowerMode .idle) fun _ => counted

theorem SameButCaches.execExitPd : SameOutcome (Machine.execExitPd s) (Machine.execExitPd t) :=
  h.gate (h.withLock (h.takeLock.releasePd.dropLock.finish _))

/-! ### Initialization -/

omit h in
/-- Steps 3 to 7 of R180. -/
theorem SameButCaches.identify {k : JedecId → State → Out} (h : SameButCaches s t)
    (hk : ∀ id u v, SameButCaches u v → SameOutcome (k id u) (k id v)) :
    SameOutcome (Machine.identify s k) (Machine.identify t k) := by
  obtain ⟨_, _, _, _, rfl⟩ := sameButCaches_iff.mp h
  rw [identify_spec, identify_spec]
  exact rel_ite .rfl (fun _ => SameButCaches.raise (by rfl) _) fun _ => hk _ _ _ rfl

theorem SameButCaches.readUid : SameButCaches s.readUid t.readUid := by
  obtain ⟨_, _, _, _, rfl⟩ := sameButCaches_iff.mp h
  rw [State.readUid_spec, State.readUid_spec]
  rfl

theorem SameButCaches.complete (bc : Nat) : SameButCaches (s.complete bc) (t.complete bc) := by
  obtain ⟨_, _, _, _, rfl⟩ := sameButCaches_iff.mp h
  rw [State.complete_spec, State.complete_spec]
  rfl

theorem SameButCaches.execInit : SameOutcome (Machine.execInit s) (Machine.execInit t) := by
  have known (id : JedecId) {u v : State} (h : SameButCaches u v) :
      Config.blockCountFromId u.readUid.config id = Config.blockCountFromId v.readUid.config id := by
    obtain ⟨_, _, _, _, he⟩ := sameButCaches_iff.mp h.readUid
    rw [he]
    rfl
  have model {u v : State} (h : SameButCaches u v) : u.model = v.model := by
    obtain ⟨_, _, _, _, rfl⟩ := sameButCaches_iff.mp h
    rfl
  obtain ⟨_, _, _, _, rfl⟩ := sameButCaches_iff.mp h
  refine rel_ite .rfl (fun _ => h.raise _) fun _ => rel_ite .rfl (fun _ => h.raise _) fun _ =>
    h.identify fun id u v h => rel_ite (by rw [model h]) (fun _ => h.raise _) fun _ => ?_
  simp only
  rw [known id h]
  exact rel_ite .rfl (fun _ => h.readUid.complete _) fun _ => h.readUid.raise _

theorem SameButCaches.execInitNoid (bc : Word) :
    SameOutcome (Machine.execInitNoid bc s) (Machine.execInitNoid bc t) := by
  obtain ⟨_, _, _, _, rfl⟩ := sameButCaches_iff.mp h
  exact rel_ite .rfl (fun _ => h.raise _) fun _ => rel_ite .rfl (fun _ => h.raise _) fun _ =>
    rel_ite .rfl (fun _ => h.raise _) fun _ => h.identify fun _ _ _ h => h.readUid.complete _

/-! ### Every instruction -/

/-- Every instruction goes alike in two states that agree on everything but the caches (R27, R30). -/
theorem SameButCaches.exec (i : Instr) : SameOutcome (Machine.exec i s) (Machine.exec i t) := by
  cases i with
  | wren => exact h.lone_frame [0x06] 0 fun _ => Result.zero
  | wrdi => exact h.lone_frame [0x04] 0 fun _ => Result.zero
  | rdp => exact h.lone_frame [0xAB] 0 fun _ => Result.zero
  | dpd => exact h.lone_frame [0xB9] 0 fun _ => Result.zero
  | rdid => exact h.lone_frame [0x9F] 3 fun r => Result.ofValue ((jedecOfBytes r).zeroExtend 64)
  | ruid => exact h.lone_frame [0x4B, 0, 0, 0, 0] 8 fun r => Result.ofValue (uidOfBytes r)
  | fread a n => exact h.lone_frame (0x0B :: addrBytes a ++ [0]) n Result.ofData
  | pp a p => exact h.lone_frame (0x02 :: addrBytes a ++ p) 0 fun _ => Result.zero
  | se a => exact h.lone_frame (0x20 :: addrBytes a) 0 fun _ => Result.zero
  | be32 a => exact h.lone_frame (0x52 :: addrBytes a) 0 fun _ => Result.zero
  | be64 a => exact h.lone_frame (0xD8 :: addrBytes a) 0 fun _ => Result.zero
  | ce => exact h.lone_frame [0xC7] 0 fun _ => Result.zero
  | rdsr1 => exact h.lone_frame [0x05] 1 fun r => Result.ofValue ((r.getD 0 0).zeroExtend 64)
  | rdsr2 => exact h.lone_frame [0x35] 1 fun r => Result.ofValue ((r.getD 0 0).zeroExtend 64)
  | rdsr3 => exact h.lone_frame [0x15] 1 fun r => Result.ofValue ((r.getD 0 0).zeroExtend 64)
  | wrsr1 v => exact h.lone_frame [0x01, v] 0 fun _ => Result.zero
  | wrsr2 v => exact h.lone_frame [0x31, v] 0 fun _ => Result.zero
  | wrsr3 v => exact h.lone_frame [0x11, v] 0 fun _ => Result.zero
  | poll budget => exact h.execPoll budget
  | init => exact h.execInit
  | initNoid bc => exact h.execInitNoid bc
  | enterPd => exact h.execEnterPd
  | exitPd => exact h.execExitPd
  | read unit index offset len => exact h.execRead unit index offset len
  | write unit index offset len data => exact h.execWrite unit index offset len data
  | erase4k unit index offset =>
    exact h.erase (cmd := State.cmdSe) Params.tSe4kMs unit index offset fun _ _ => rfl
  | erase32k unit index offset =>
    exact h.erase (cmd := State.cmdBe32) Params.tBe32kMs unit index offset fun _ _ => rfl
  | erase64k unit index offset =>
    exact h.erase (cmd := State.cmdBe64) Params.tBe64kMs unit index offset fun _ _ => rfl
  | eraseChip => exact h.gate (h.mutating Params.tCeMs fun h => (h.frame [0xC7] 0).2)
  | isEmpty unit index offset len => exact h.execIsEmpty unit index offset len
  | rdSr1 => exact h.execRdSr1
  | rdSr2 => exact h.execRdSr2
  | rdSr3 => exact h.execRdSr3
  | wrSr1 v => exact h.gate (h.mutating Params.tSrMs fun h => (h.frame [0x01, v] 0).2.withCaches ..)
  | wrSr2 v => exact h.gate (h.mutating Params.tSrMs fun h => (h.frame [0x31, v] 0).2.withCaches ..)
  | wrSr3 v => exact h.gate (h.mutating Params.tSrMs fun h => (h.frame [0x11, v] 0).2.withCaches ..)
  | writeEnable => exact h.gated_frame [0x06] 0 fun _ => Result.zero
  | writeDisable => exact h.gated_frame [0x04] 0 fun _ => Result.zero
  | waitBusy budget => exact h.execWaitBusy budget
  | rdJedec => exact h.gated_frame [0x9F] 3 fun r => Result.ofValue ((jedecOfBytes r).zeroExtend 64)
  | rdUid => exact h.gated_frame [0x4B, 0, 0, 0, 0] 8 fun r => Result.ofValue (uidOfBytes r)
  | pageToSector index => exact h.convert index h.pageSize_eq h.sectorSize_eq
  | pageToBlock index => exact h.convert index h.pageSize_eq h.blockSize_eq
  | sectorToBlock index => exact h.convert index h.sectorSize_eq h.blockSize_eq
  | sectorToPage index => exact h.convert index h.sectorSize_eq h.pageSize_eq
  | blockToPage index => exact h.convert index h.blockSize_eq h.pageSize_eq
  | blockToSector index => exact h.convert index h.blockSize_eq h.sectorSize_eq
  | idManufacturer id =>
    exact h.finish_config fun c => Result.ofValue (BitVec.ofNat 64 (Config.interpretManufacturer c id).code)
  | idModel id => exact h.finish_config fun c => Result.ofValue (BitVec.ofNat 64 (Config.interpretModel c id).code)
  | idBlockcount id => exact h.finish_config fun c => Result.ofValue (BitVec.ofNat 64 (Config.blockCountFromId c id))

end

/-- Settles O25: every instruction goes alike. -/
theorem cachesDecideNothing : Obligations.CachesDecideNothing := by
  unfold Obligations.CachesDecideNothing
  exact fun i s t h => h.exec i

end Sys2Proof.Safety
end

section
/-! SUPPORT. Reset and the steps that run no instruction; frames that decode are the encoding of an
instruction (R81, R84, R85). -/

namespace Sys2Proof

/-! ### The frame formats -/

/-- The three bytes an address was read from are the bytes a frame carries for it (R52, R82). -/
@[simp] theorem addrBytes_addrOfBytes (a2 a1 a0 : Byte) : addrBytes (addrOfBytes a2 a1 a0) = [a2, a1, a0] := by
  have high : (a2 ++ a1 ++ a0).extractLsb' 16 8 = a2 := by
    rw [BitVec.extractLsb'_append_eq_of_le (by omega)]
    exact BitVec.extractLsb'_append_eq_left
  have middle : (a2 ++ a1 ++ a0).extractLsb' 8 8 = a1 := by
    rw [BitVec.extractLsb'_append_eq_of_le (by omega)]
    exact BitVec.extractLsb'_append_eq_right
  have low : (a2 ++ a1 ++ a0).extractLsb' 0 8 = a0 := BitVec.extractLsb'_append_eq_right
  rw [addrBytes, addrOfBytes, high, middle, low]

section
variable {op : Byte} {args : List Byte} {rx : RxShape} {i : Instr}

theorem encode_of_formatO {j : Instr} (he : encode j = .frame [op] .none) (h : formatO j args rx = some i) :
    encode i = .frame (op :: args) rx := by
  unfold formatO at h
  split at h
  · rw [← Option.some.inj h, he]
  · cases h

theorem encode_of_formatA {f : Addr → Instr} (he : ∀ a, encode (f a) = .frame (op :: addrBytes a) .none)
    (h : formatA f args rx = some i) : encode i = .frame (op :: args) rx := by
  unfold formatA at h
  split at h
  · rw [← Option.some.inj h, he, addrBytes_addrOfBytes]
  · cases h

theorem encode_of_formatAW {f : Addr → List Byte → Instr}
    (he : ∀ a p, encode (f a p) = .frame (op :: addrBytes a ++ p) .none) (h : formatAW f args rx = some i) :
    encode i = .frame (op :: args) rx := by
  unfold formatAW at h
  split at h
  · rw [← Option.some.inj h, he, addrBytes_addrOfBytes]
    rfl
  · cases h

theorem encode_of_formatAR {f : Addr → Nat → Instr}
    (he : ∀ a n, encode (f a n) =
      .frame (op :: addrBytes a ++ List.replicate Params.fastReadDummy Params.dummyValue) (.bytes n))
    (h : formatAR f args rx = some i) : encode i = .frame (op :: args) rx := by
  unfold formatAR at h
  split at h
  · split at h
    next hd =>
      rw [← Option.some.inj h, he, addrBytes_addrOfBytes, hd]
      rfl
    next => cases h
  · cases h

theorem encode_of_formatR {j : Instr} {nDummy nRx : Nat}
    (he : encode j = .frame (op :: List.replicate nDummy Params.dummyValue) (.bytes nRx))
    (h : formatR j nDummy nRx args rx = some i) : encode i = .frame (op :: args) rx := by
  unfold formatR at h
  split at h
  next hf => rw [← Option.some.inj h, he, hf.1, hf.2]
  next => cases h

theorem encode_of_formatW1 {f : Byte → Instr} (he : ∀ v, encode (f v) = .frame [op, v] .none)
    (h : formatW1 f args rx = some i) : encode i = .frame (op :: args) rx := by
  unfold formatW1 at h
  split at h
  · rw [← Option.some.inj h, he]
  · cases h

theorem encode_of_formatStatus1 (h : formatStatus1 args rx = some i) : encode i = .frame (0x05 :: args) rx := by
  unfold formatStatus1 at h
  split at h
  · rw [← Option.some.inj h]
    rfl
  · rw [← Option.some.inj h]
    rfl
  · cases h

/-! ### Frames that decode -/

/-- What an opcode and the bytes after it stand for is encoded as these bytes and this shape (R81, R84). -/
theorem encode_of_frameInstr (h : frameInstr op args rx = some i) : encode i = .frame (op :: args) rx := by
  have opcode {n : Nat} (hn : op.toNat = n) : op = BitVec.ofNat 8 n := BitVec.eq_of_toNat_eq (by simp [← hn])
  unfold frameInstr at h
  split at h
  next hop => obtain rfl := opcode hop; exact encode_of_formatO rfl h
  next hop => obtain rfl := opcode hop; exact encode_of_formatO rfl h
  next hop => obtain rfl := opcode hop; exact encode_of_formatO rfl h
  next hop => obtain rfl := opcode hop; exact encode_of_formatO rfl h
  next hop => obtain rfl := opcode hop; exact encode_of_formatR rfl h
  next hop => obtain rfl := opcode hop; exact encode_of_formatR rfl h
  next hop => obtain rfl := opcode hop; exact encode_of_formatAR (fun _ _ => rfl) h
  next hop => obtain rfl := opcode hop; exact encode_of_formatAW (fun _ _ => rfl) h
  next hop => obtain rfl := opcode hop; exact encode_of_formatA (fun _ => rfl) h
  next hop => obtain rfl := opcode hop; exact encode_of_formatA (fun _ => rfl) h
  next hop => obtain rfl := opcode hop; exact encode_of_formatA (fun _ => rfl) h
  next hop => obtain rfl := opcode hop; exact encode_of_formatO rfl h
  next hop => obtain rfl := opcode hop; exact encode_of_formatStatus1 h
  next hop => obtain rfl := opcode hop; exact encode_of_formatR rfl h
  next hop => obtain rfl := opcode hop; exact encode_of_formatR rfl h
  next hop => obtain rfl := opcode hop; exact encode_of_formatW1 (fun _ => rfl) h
  next hop => obtain rfl := opcode hop; exact encode_of_formatW1 (fun _ => rfl) h
  next hop => obtain rfl := opcode hop; exact encode_of_formatW1 (fun _ => rfl) h
  next => cases h

end

/-- A frame that decodes is the encoding of the well-formed instruction it decodes to (R81, R84, R85). -/
theorem encode_of_decodeFrame {tx : List Byte} {rx : RxShape} {i : Instr} (h : decodeFrame tx rx = .ok i) :
    i.wellFormed = true ∧ encode i = .frame tx rx := by
  cases tx with
  | nil => cases h
  | cons op args =>
    unfold decodeFrame at h
    simp only at h
    split at h
    next =>
      split at h
      next j hj =>
        split at h
        next hw =>
          cases h
          exact ⟨hw, encode_of_frameInstr hj⟩
        next => cases h
      next => cases h
    next => cases h

/-- A frame whose first byte is no opcode does not decode (R85). -/
theorem decodeFrame_of_unknownOpcode {tx : List Byte} {rx : RxShape} {i : Instr}
    (h : Safety.knownOpcode tx = false) : decodeFrame tx rx ≠ .ok i := by
  cases tx with
  | nil => nofun
  | cons op args =>
    have unknown : op ∉ frameOpcodes := by simpa [Safety.knownOpcode] using h
    simp [decodeFrame, unknown]

/-- A frame is never rejected as a command word. -/
theorem decodeFrame_ne_reservedOpSel (tx : List Byte) (rx : RxShape) (op : Byte) :
    decodeFrame tx rx ≠ .error (.reservedOpSel op) := by
  unfold decodeFrame
  repeat' split
  all_goals nofun

namespace Machine

/-! ### Steps that run no instruction -/

/-- A frame that does not decode is refused (R85, log entry 16). -/
theorem step_of_not_decodeFrame {s : State} {tx : List Byte} {rx : RxShape} {rest : List HostMove}
    (hq : s.seq = .idle) (hp : s.port = .issue (.frame tx rx) :: rest) (h : ∀ i, decodeFrame tx rx ≠ .ok i) :
    step s = .refused .notAFrame := by
  unfold step
  rw [hq, hp]
  simp only [decode]
  cases hd : decodeFrame tx rx with
  | ok i => exact absurd hd (h i)
  | error e =>
    cases e with
    | reservedOpSel op => exact absurd hd (decodeFrame_ne_reservedOpSel tx rx op)
    | unknownOpcode => rfl
    | badFrame => rfl

/-- Settles O11: a frame that decodes begins with an opcode, and is the encoding of an instruction. -/
theorem stepWithoutInstruction : Obligations.StepWithoutInstruction := by
  unfold Obligations.StepWithoutInstruction
  refine ⟨fun s hq hp => ?_, fun s i rest hq hp => ?_, fun s i r rest hq hp => ?_,
    fun s tx rx rest hq hp unknown => ?_, fun s tx rx rest hq hp none => ?_⟩
  · simp [step, hq, hp]
  · simp [step, hq, hp]
  · simp [step, hq, hp]
  · exact step_of_not_decodeFrame hq hp fun i => decodeFrame_of_unknownOpcode unknown
  · refine step_of_not_decodeFrame hq hp fun i hd => ?_
    obtain ⟨wf, he⟩ := encode_of_decodeFrame hd
    exact none i wf he

/-- Settles O10: the last arm of the step. -/
theorem stepRunsDecoded : Obligations.StepRunsDecoded := by
  unfold Obligations.StepRunsDecoded
  intro s r rest i hq hp hd
  simp [step, hq, hp, hd]

/-! ### Reset -/

/-- Settles O8: the reset state is written out, and its port is empty. -/
theorem resetState : Obligations.ResetState := by
  unfold Obligations.ResetState
  exact ⟨⟨rfl, rfl, rfl, rfl, rfl, rfl, rfl, rfl, rfl, rfl, rfl, rfl, rfl, rfl, rfl, rfl, rfl, rfl⟩,
    ⟨rfl, rfl, rfl⟩, rfl⟩

/-- Settles O12: at reset the flag is clear, the counter zero, and no device is fitted. -/
theorem blockInvAtReset : Obligations.BlockInvAtReset := by
  unfold Obligations.BlockInvAtReset
  have power : Safety.PowerHolds State.reset := iff_of_false nofun (Nat.lt_irrefl 0)
  exact ⟨⟨nofun, power, rfl⟩, nofun⟩

end Machine

end Sys2Proof
end

section
/-! SUPPORT. The operations of one read frame in the lock bracket: RD_SRn, RD_JEDEC and RD_UID (R225, R226, R250 to
R252), as full next states. -/

namespace Sys2Proof.Machine

open Safety

/-- An initialized block with LOCK returning goes on in its bracket (R272, R289). -/
theorem gate_withLock_of_ready {s : State} {k : State → Out} (hi : s.initialized = true)
    (hl : s.lockReturns = true) : gate s (fun s => withLock s k) = k s.takeLock := by
  rw [gate_of_initialized hi, withLock_of_returns hl]

/-- One frame in the lock bracket, some cache slots written from what it returned, and the end of the operation: the
bracketed events, the environment the frame leaves, the slots and the result record, and nothing else (R27, R289). -/
theorem State.locked_frame_spec (s : State) (bytes : List Byte) (n : Nat) (k1 k2 k3 : Option Byte) (r : Result) :
    (((s.takeLock.frame bytes n).2.cache k1 k2 k3).dropLock.finish r) =
      { s.cache k1 k2 k3 with
        trace := s.trace ++ bracketed s (frameEvents bytes (s.env.frame bytes n).1)
        env := (s.env.frame bytes n).2
        result := r
        seq := .idle } := by
  simp only [State.frame_spec, State.takeLock_spec, State.cache, State.dropLock_spec, State.finish_spec, bracketed,
    unlockEvents, List.append_assoc]

theorem State.takeLock_frame_fst (s : State) (bytes : List Byte) (n : Nat) :
    (s.takeLock.frame bytes n).1 = (s.env.frame bytes n).1 := by
  rw [State.frame_spec, State.takeLock_env]

/-- Settles O43: each is one read frame in the lock bracket, its byte put in its own slot. -/
theorem readStatus : Obligations.ReadStatus := by
  unfold Obligations.ReadStatus
  intro s hi hl
  simp only [exec, execRdSr1, execRdSr2, execRdSr3, gate_withLock_of_ready hi hl, State.cmdRdsr1, State.cmdRdsr2,
    State.cmdRdsr3, State.takeLock_frame_fst]
  exact ⟨congrArg _ (s.locked_frame_spec [0x05] 1 (some _) none none _),
    congrArg _ (s.locked_frame_spec [0x35] 1 none (some _) none _),
    congrArg _ (s.locked_frame_spec [0x15] 1 none none (some _) _)⟩

/-- Settles O49: each is one id frame in the lock bracket, with no slot written. -/
theorem readIds : Obligations.ReadIds := by
  unfold Obligations.ReadIds
  intro s hi hl
  simp only [exec, execRdJedec, execRdUid, gate_withLock_of_ready hi hl, State.cmdRdid, State.cmdRuid,
    State.takeLock_frame_fst]
  exact ⟨congrArg _ (s.locked_frame_spec [0x9F] 3 none none none _),
    congrArg _ (s.locked_frame_spec [0x4B, 0, 0, 0, 0] 8 none none none _)⟩

end Sys2Proof.Machine
end

section
/-! SUPPORT. The tables of the id decoders: what a search through MFR_TABLE and MODEL_TABLE finds (R150, R151). -/

namespace Sys2Proof.Machine

/-! ### Searching the tables -/

/-- A manufacturer byte with no entry finds none. -/
theorem findEntry_of_absent {key : Byte} {table : List MfrEntry} (place before : Nat)
    (h : ∀ e ∈ table, e.mfrByte ≠ key) : findEntry key place before table = none := by
  induction table generalizing place before with
  | nil => rfl
  | cons e rest ih =>
    obtain ⟨he, hrest⟩ := List.forall_mem_cons.mp h
    rw [findEntry, if_neg he]
    exact ih _ _ hrest

/-- The first entry for a manufacturer byte is found, with its place and the model codes before it counted. -/
theorem findEntry_of_first {key : Byte} {front after : List MfrEntry} {e : MfrEntry} (place before : Nat)
    (he : e.mfrByte = key) (h : ∀ o ∈ front, o.mfrByte ≠ key) :
    findEntry key place before (front ++ e :: after) =
      some (e, place + front.length, before + (front.map fun o => o.modelTable.length).sum) := by
  induction front generalizing place before with
  | nil => simp [findEntry, he]
  | cons o rest ih =>
    obtain ⟨ho, hrest⟩ := List.forall_mem_cons.mp h
    rw [List.cons_append, findEntry, if_neg ho, ih _ _ hrest]
    simp only [List.length_cons, List.map_cons, List.sum_cons, Option.some.injEq, Prod.mk.injEq, true_and]
    omega

/-- A code that is not in a model table finds no place. -/
theorem findCode_of_not_mem {code : BitVec 16} {table : List (BitVec 16)} (h : code ∉ table) :
    findCode code table = none := by
  induction table with
  | nil => rfl
  | cons c rest ih =>
    obtain ⟨hc, hrest⟩ := not_or.mp (List.mem_cons.not.mp h)
    rw [findCode, if_neg (Ne.symm hc), ih hrest]
    rfl

/-- The first place of a code in a model table is found. -/
theorem findCode_of_first {code : BitVec 16} {codes rest : List (BitVec 16)} (h : code ∉ codes) :
    findCode code (codes ++ code :: rest) = some codes.length := by
  induction codes with
  | nil => simp [findCode]
  | cons c codes ih =>
    obtain ⟨hc, hcodes⟩ := not_or.mp (List.mem_cons.not.mp h)
    rw [List.cons_append, findCode, if_neg (Ne.symm hc), ih hcodes]
    rfl

/-! ### The decoders -/

section
variable {c : Config} {id : JedecId} {e : MfrEntry} {place before : Nat}
  (entry : Config.entryOf c id = some (e, place, before))
include entry

theorem interpretManufacturer_of_entry : Config.interpretManufacturer c id = .member place := by
  simp [Config.interpretManufacturer, entry]

theorem interpretModel_of_not_mem (h : modelCodeOf e.modelSel id ∉ e.modelTable) :
    Config.interpretModel c id = .modelUnknown := by
  simp [Config.interpretModel, entry, findCode_of_not_mem h]

theorem interpretModel_of_first {codes rest : List (BitVec 16)}
    (table : e.modelTable = codes ++ modelCodeOf e.modelSel id :: rest) (h : modelCodeOf e.modelSel id ∉ codes) :
    Config.interpretModel c id = .member (before + codes.length) := by
  simp [Config.interpretModel, entry, table, findCode_of_first h]

end

/-- Settles O53: the decoders read off what the searches find. -/
theorem idDecoding : Obligations.IdDecoding := by
  unfold Obligations.IdDecoding
  intro c id
  refine ⟨fun absent => ?_, fun front after e table key first => ?_⟩
  · have entry : Config.entryOf c id = none := findEntry_of_absent 0 0 absent
    simp [Config.interpretManufacturer, Config.interpretModel, Config.blockCountFromId, entry]
  · have entry : Config.entryOf c id =
        some (e, front.length, (front.map fun o => o.modelTable.length).sum) := by
      rw [Config.entryOf, table, findEntry_of_first 0 0 key first, Nat.zero_add, Nat.zero_add]
    exact ⟨interpretManufacturer_of_entry entry, interpretModel_of_not_mem entry,
      fun _ _ => interpretModel_of_first entry⟩

end Sys2Proof.Machine
end

section
/-! SUPPORT. The frames every instruction sends, in a few shapes read off `Emits`, and what follows from them for the
bus and for the write-enable discipline (R63, R65, R85, R304). -/

namespace Sys2Proof.Machine

open Safety

/-! ### The frames of the traffic -/

/-- The frames of the traffic, in order. -/
def Traffic.sends (tr : Traffic) : List (List Byte) := tr.pieces.flatMap Piece.sends

theorem txFrames_flatMap {α : Type} (f : α → List Event) (l : List α) :
    txFrames (l.flatMap f) = l.flatMap fun x => txFrames (f x) := by
  induction l with
  | nil => rfl
  | cons x rest ih => rw [List.flatMap_cons, txFrames_append, ih, List.flatMap_cons]

theorem Piece.txFrames_events (p : Piece) : txFrames p.events = p.sends := by
  cases p with
  | settle => rfl
  | frame bytes received => exact txFrames_frameEvents bytes received
  | poll dummy polls => exact txFrames_pollEvents dummy polls

/-- The lock brackets hold no frame of their own. -/
theorem Traffic.txFrames_events (s : State) (tr : Traffic) : txFrames (tr.events s) = tr.sends := by
  cases tr with
  | plain ps => simp only [events, sends, pieces, txFrames_flatMap, Piece.txFrames_events]
  | locked gs =>
    simp only [events, sends, pieces, txFrames_flatMap, txFrames_bracketed, Piece.txFrames_events]
    rw [← List.flatMap_id, List.flatMap_assoc]
    rfl

/-- A frame of the command set that carries no mutating command. -/
def isHarmless (f : List Byte) : Bool := knownOpcode f && !isMutating f

theorem all_isHarmless_iff {frames : List (List Byte)} :
    frames.all isHarmless = true ↔ ∀ f ∈ frames, knownOpcode f = true ∧ isMutating f = false := by
  simp only [List.all_eq_true, isHarmless, Bool.and_eq_true, Bool.not_eq_true']

/-- The frames of one instruction: none that mutates; a lone frame that does; a mutating command in the template of
R211; or the chunks of a WRITE, with the final poll or without (R223). -/
inductive Sends (i : Instr) : List (List Byte) → Prop where
  | harmless (frames : List (List Byte)) (all : frames.all isHarmless = true) : Sends i frames
  | lone (f : List Byte) (known : knownOpcode f = true) (notHost : isHostOp i = false)
      (array : changesArray i = touchesArray f) : Sends i [f]
  | template (f : List Byte) (known : knownOpcode f = true) (array : changesArray i = touchesArray f) :
      Sends i [[0x06], f, [0x05]]
  | chunks (runs : List ChunkRun) (tail : List (List Byte)) (array : changesArray i = true)
      (last : tail.all isHarmless = true) :
      Sends i (runs.flatMap (fun c => [[0x06], c.frame, [0x05]]) ++ tail)

/-- The frames INIT sends after it has read the id (R180). -/
theorem laterPieces_harmless (u v1 v2 v3 : List Byte) (n : Nat) :
    ((laterPieces u v1 v2 v3 n).flatMap Piece.sends).all isHarmless = true := by
  have all : ∀ p ∈ laterPieces u v1 v2 v3 4, p.sends.all isHarmless = true := by
    simp only [laterPieces, List.take_succ_cons, List.take_zero, List.forall_mem_cons]
    exact ⟨rfl, rfl, rfl, rfl, nofun⟩
  rw [List.all_flatMap, List.all_eq_true]
  exact fun p hp => all p (List.mem_of_mem_take hp)

theorem chunkPieces_sends (runs : List ChunkRun) :
    (runs.flatMap chunkPieces).flatMap Piece.sends = runs.flatMap fun c => [[0x06], c.frame, [0x05]] :=
  List.flatMap_assoc

/-- The frames of an instruction have one of the shapes of `Sends`. -/
theorem Emits.sends {i : Instr} {tr : Traffic} (h : Emits i tr) : Sends i tr.sends := by
  cases i
  case wren | wrdi | rdp | dpd | pageToSector | pageToBlock | sectorToBlock | sectorToPage | blockToPage | blockToSector
      | idManufacturer | idModel | idBlockcount =>
    obtain rfl := h
    exact .harmless _ rfl
  case rdid | ruid | fread | rdsr1 | rdsr2 | rdsr3 =>
    obtain ⟨_, rfl⟩ := h
    exact .harmless _ rfl
  case pp | se | be32 | be64 | ce | wrsr1 | wrsr2 | wrsr3 =>
    obtain rfl := h
    exact .lone _ rfl rfl rfl
  case init | initNoid =>
    obtain rfl | ⟨_, u, v1, v2, v3, n, rfl⟩ := h
    · exact .harmless _ rfl
    · exact .harmless _ (laterPieces_harmless u v1 v2 v3 n)
  case enterPd | exitPd =>
    obtain rfl | rfl | rfl := h <;> exact .harmless _ rfl
  case writeEnable | writeDisable =>
    obtain rfl | rfl := h <;> exact .harmless _ rfl
  case rdSr1 | rdSr2 | rdSr3 | rdJedec | rdUid =>
    obtain rfl | ⟨_, rfl⟩ := h <;> exact .harmless _ rfl
  case poll | waitBusy | read =>
    obtain rfl | ⟨_, _, rfl⟩ := h <;> exact .harmless _ rfl
  case isEmpty =>
    obtain rfl | ⟨probes, rfl⟩ := h
    · exact .harmless _ rfl
    · refine .harmless _ ?_
      rw [Traffic.sends, Traffic.pieces, flatten_singletons, List.flatMap_map, List.all_flatMap, List.all_eq_true]
      exact fun _ _ => rfl
  case eraseChip | wrSr1 | wrSr2 | wrSr3 =>
    obtain rfl | ⟨_, _, rfl⟩ := h
    · exact .harmless _ rfl
    · exact .template _ rfl rfl
  case erase4k | erase32k | erase64k =>
    obtain rfl | ⟨_, _, _, rfl⟩ := h
    · exact .harmless _ rfl
    · exact .template _ rfl rfl
  case write =>
    obtain rfl | ⟨runs, tail, rfl, last⟩ := h
    · exact .harmless _ rfl
    · have hs : Traffic.sends (.locked [runs.flatMap chunkPieces ++ tail]) =
          runs.flatMap (fun c => [[0x06], c.frame, [0x05]]) ++ tail.flatMap Piece.sends := by
        simp only [Traffic.sends, Traffic.pieces, List.flatten_singleton, List.flatMap_append, chunkPieces_sends]
      rw [hs]
      refine .chunks runs _ rfl ?_
      rcases last with rfl | ⟨_, _, rfl⟩ <;> rfl

/-! ### Opcodes and write-enables -/

/-- Every frame sent begins with one of the eighteen opcodes (R85). -/
theorem Sends.known {i : Instr} {frames : List (List Byte)} (h : Sends i frames) :
    ∀ f ∈ frames, knownOpcode f = true := by
  cases h with
  | harmless _ all => exact fun f hf => (all_isHarmless_iff.mp all f hf).1
  | lone f known => simpa using known
  | template f known =>
    have all : [[0x06], f, [0x05]].all knownOpcode = true := by simp only [List.all_cons, known]; rfl
    exact List.all_eq_true.mp all
  | chunks runs tail _ last =>
    intro f hf
    rcases List.mem_append.mp hf with hf | hf
    · obtain ⟨c, -, hf⟩ := List.mem_flatMap.mp hf
      have all : [[0x06], c.frame, [0x05]].all knownOpcode = true := rfl
      exact List.all_eq_true.mp all f hf
    · exact (all_isHarmless_iff.mp last f hf).1

/-- Frames none of which mutates keep the write-enable discipline. -/
theorem writeEnabled_of_harmless {frames : List (List Byte)} (h : frames.all isHarmless = true) (b : Bool) :
    writeEnabled b frames = true := by
  rw [all_isHarmless_iff] at h
  induction frames generalizing b with
  | nil => rfl
  | cons f rest ih =>
    obtain ⟨⟨-, quiet⟩, all⟩ := List.forall_mem_cons.mp h
    simp [writeEnabled, quiet, ih all]

/-- A frame right after a write-enable may mutate, and the poll after it does not (R65, R211). -/
theorem writeEnabled_template (b : Bool) (f : List Byte) (rest : List (List Byte))
    (h : ∀ b, writeEnabled b rest = true) : writeEnabled b ([0x06] :: f :: [0x05] :: rest) = true := by
  simp only [writeEnabled, h, decide_true, Bool.or_true, Bool.true_and, Bool.and_true]
  rfl

/-- In the frames of a host operation every mutating one is right after a write-enable (R65, R304). -/
theorem Sends.writeEnabled {i : Instr} {frames : List (List Byte)} (h : Sends i frames)
    (host : isHostOp i = true) : writeEnabled false frames = true := by
  cases h with
  | harmless _ all => exact writeEnabled_of_harmless all _
  | lone _ _ notHost => simp [host] at notHost
  | template f => exact writeEnabled_template _ f [] fun _ => rfl
  | chunks runs tail _ last =>
    have chunks : ∀ b, Safety.writeEnabled b (runs.flatMap (fun c => [[0x06], c.frame, [0x05]]) ++ tail) = true := by
      induction runs with
      | nil => exact writeEnabled_of_harmless last
      | cons c rest ih => exact fun b => writeEnabled_template b c.frame _ ih
    exact chunks _

/-- Settles O24: the frames of the traffic have the shapes of `Sends`. -/
theorem frameDiscipline : Obligations.FrameDiscipline := by
  unfold Obligations.FrameDiscipline
  intro i s t h
  obtain ⟨tr, ran, emits⟩ := exec_ran i h
  refine ⟨tr.events s, ran.trace, ?_⟩
  rw [Traffic.txFrames_events]
  exact ⟨emits.sends.known, emits.sends.writeEnabled⟩

/-! ### The discipline of the bus -/

theorem busAfter_append (p : BusPhase) (a b : List Event) :
    busAfter p (a ++ b) = (busAfter p a).bind fun q => busAfter q b := by
  induction a generalizing p with
  | nil => rfl
  | cons ev rest ih =>
    simp only [List.cons_append, busAfter]
    cases busEvent p ev with
    | none => rfl
    | some q => exact ih q

theorem wellFramed_append {a b : List Event} (ha : WellFramed a) (hb : WellFramed b) : WellFramed (a ++ b) := by
  unfold WellFramed at ha hb ⊢
  rw [busAfter_append, ha, Option.bind_some, hb]

theorem wellFramed_flatMap {α : Type} {f : α → List Event} {l : List α} (h : ∀ x ∈ l, WellFramed (f x)) :
    WellFramed (l.flatMap f) := by
  induction l with
  | nil => rfl
  | cons x rest ih =>
    obtain ⟨hx, hrest⟩ := List.forall_mem_cons.mp h
    exact wellFramed_append hx (ih hrest)

/-- A frame with a byte to send keeps the discipline (R117). -/
theorem wellFramed_frameEvents {bytes : List Byte} (received : List Byte) (h : bytes ≠ []) :
    WellFramed (frameEvents bytes received) := by
  unfold WellFramed frameEvents
  by_cases hr : received = []
  · simp [busAfter, busEvent, h, hr]
  · simp [busAfter, busEvent, h, hr]

/-- The polls of a polling frame stay in the frame (R136). -/
theorem busAfter_pollBody (polls : List Byte) : busAfter .sent (pollBody polls) = some .sent := by
  induction polls with
  | nil => rfl
  | cons p rest ih => exact ih

theorem wellFramed_pollEvents (dummy : Byte) (polls : List Byte) : WellFramed (pollEvents dummy polls) := by
  have opened : busAfter .high [.csLow, .tx [0x05], .rx [dummy]] = some .sent := rfl
  rw [WellFramed, pollEvents_eq, busAfter_append, busAfter_append, opened, Option.bind_some, busAfter_pollBody]
  rfl

theorem Piece.wellFramed_events (p : Piece) (h : ∀ f ∈ p.sends, f ≠ []) : WellFramed p.events := by
  cases p with
  | settle => rfl
  | frame bytes received => exact wellFramed_frameEvents received (h bytes List.mem_cons_self)
  | poll dummy polls => exact wellFramed_pollEvents dummy polls

/-- A lock bracket stands outside frames (R115, R116). -/
theorem wellFramed_bracketed (s : State) {body : List Event} (h : WellFramed body) :
    WellFramed (bracketed s body) := by
  have lock : WellFramed (lockEvents s) := by unfold lockEvents; split <;> rfl
  have unlock : WellFramed (unlockEvents s) := by unfold unlockEvents; split <;> rfl
  exact wellFramed_append (wellFramed_append lock h) unlock

/-- Traffic whose frames have a byte to send keeps the discipline. -/
theorem Traffic.wellFramed_events (s : State) (tr : Traffic) (h : ∀ f ∈ tr.sends, f ≠ []) :
    WellFramed (tr.events s) := by
  have piece : ∀ p ∈ tr.pieces, WellFramed p.events := fun p hp =>
    p.wellFramed_events fun f hf => h f (List.mem_flatMap.mpr ⟨p, hp, hf⟩)
  cases tr with
  | plain ps => exact wellFramed_flatMap piece
  | locked gs =>
    exact wellFramed_flatMap fun ps hps => wellFramed_bracketed s <|
      wellFramed_flatMap fun p hp => piece p (List.mem_flatten.mpr ⟨ps, hps, hp⟩)

/-- Every instruction appends events that keep the discipline. -/
theorem exec_wellFramed {i : Instr} {s t : State} (h : exec i s = .next t) (hs : WellFramed s.trace) :
    WellFramed t.trace := by
  obtain ⟨tr, ran, emits⟩ := exec_ran i h
  have nonempty : ∀ f ∈ tr.sends, f ≠ [] := by
    rintro f hf rfl
    exact absurd (emits.sends.known [] hf) (by decide)
  rw [ran.trace]
  exact wellFramed_append hs (tr.wellFramed_events s nonempty)

/-- Settles O14: an instruction keeps it by its traffic, and no other step emits an event. -/
theorem busDisciplineKept : Obligations.BusDisciplineKept := by
  unfold Obligations.BusDisciplineKept
  intro s t hs h
  obtain ⟨-, ⟨-, rfl⟩ | ⟨rest, rfl | ⟨i, h⟩ | rfl⟩⟩ := step_cases h
  · exact hs
  · exact hs
  · exact exec_wellFramed h hs
  · exact hs

end Sys2Proof.Machine
end

section
/-! SUPPORT. What the traffic of an instruction does to a fitted reference device: every piece keeps the canonical form
and closes its frame, and a piece whose frame is no program and no erase leaves the array (R60, R63, R72). -/

namespace Sys2Proof.Machine

open Safety

/-! ### The canonical form -/

/-- The device invariant of an environment: what `DeviceInv` says of a state. -/
def Environment.DeviceWf (e : Environment) : Prop :=
  ∀ d, e.device = some d → Memory.wf d.mem = true ∧ d.txSeen = [] ∧ d.rxSeen = 0

/-- Chip-select rising keeps the canonical form and closes the frame. -/
theorem RefDevice.deselect_wf {d : RefDevice} (h : Memory.wf d.mem = true) :
    Memory.wf d.deselect.mem = true ∧ d.deselect.txSeen = [] ∧ d.deselect.rxSeen = 0 :=
  ⟨d.act_wf d.txSeen h, rfl, rfl⟩

theorem Environment.DeviceWf.deselect {e : Environment} (h : e.DeviceWf) : e.deselect.DeviceWf := by
  intro d' hd'
  obtain ⟨d, hd, rfl⟩ := Option.map_eq_some_iff.mp hd'
  exact RefDevice.deselect_wf (h d hd).1

/-- A frame keeps the canonical form and is closed at its end (R63). -/
theorem Environment.DeviceWf.frame {e : Environment} (h : e.DeviceWf) (bytes : List Byte) (n : Nat) :
    (e.frame bytes n).2.DeviceWf := by
  intro d' hd'
  cases hd : e.device with
  | none => simp [frame_device_none e bytes n hd] at hd'
  | some d =>
    obtain ⟨d₁, after, mem, -⟩ := frame_device e bytes n d hd
    obtain rfl : d₁.deselect = d' := Option.some.inj (after.symm.trans hd')
    exact RefDevice.deselect_wf (mem ▸ (h d hd).1)

theorem Environment.DeviceWf.run {e : Environment} (h : e.DeviceWf) (p : Piece) : (p.run e).DeviceWf := by
  cases p with
  | settle => exact h.deselect
  | frame bytes received => exact h.frame bytes _
  | poll _ polls => exact h.frame [0x05] _

/-- Settles O16: an instruction keeps the invariant piece by piece, and no other step touches the environment. -/
theorem deviceInvKept : Obligations.DeviceInvKept := by
  unfold Obligations.DeviceInvKept
  intro s t hs h
  obtain ⟨-, ⟨-, rfl⟩ | ⟨rest, rfl | ⟨i, h⟩ | rfl⟩⟩ := step_cases h
  · exact hs
  · exact hs
  · obtain ⟨tr, ran, -⟩ := exec_ran i h
    have kept : (tr.pieces.foldl Piece.run s.env).DeviceWf :=
      List.foldlRecOn tr.pieces Piece.run (motive := Environment.DeviceWf) hs fun _ h p _ => h.run p
    rw [← ran.env] at kept
    exact kept
  · exact hs

/-! ### The array -/

/-- A device is fitted whose array and capacity are those of `d`, with no frame open. -/
def Environment.HasArrayOf (d : RefDevice) (e : Environment) : Prop :=
  ∃ d', e.device = some d' ∧ d'.mem = d.mem ∧ d'.capDev = d.capDev ∧ d'.txSeen = []

/-- Chip-select rising with no frame open leaves the array. -/
theorem Environment.HasArrayOf.deselect {d : RefDevice} {e : Environment} (h : e.HasArrayOf d) :
    e.deselect.HasArrayOf d := by
  obtain ⟨d', hd, mem, cap, closed⟩ := h
  obtain ⟨mem', cap'⟩ := d'.act_other d'.txSeen (by rw [closed]; rfl)
  exact ⟨d'.deselect, by rw [Environment.deselect, hd]; rfl, mem'.trans mem, cap'.trans cap, rfl⟩

/-- A frame that is no program and no erase leaves the array (R72). -/
theorem Environment.HasArrayOf.frame {d : RefDevice} {e : Environment} (h : e.HasArrayOf d) {bytes : List Byte}
    (hb : touchesArray bytes = false) (n : Nat) : (e.frame bytes n).2.HasArrayOf d := by
  obtain ⟨d', hd, mem, cap, -⟩ := h
  obtain ⟨d₁, after, mem₁, cap₁, rfl, -⟩ := frame_device e bytes n d' hd
  obtain ⟨mem₂, cap₂⟩ := d₁.act_other d₁.txSeen hb
  exact ⟨d₁.deselect, after, mem₂.trans (mem₁.trans mem), cap₂.trans (cap₁.trans cap), rfl⟩

theorem Environment.HasArrayOf.run {d : RefDevice} {e : Environment} (h : e.HasArrayOf d) {p : Piece}
    (hp : ∀ f ∈ p.sends, touchesArray f = false) : (p.run e).HasArrayOf d := by
  cases p with
  | settle => exact h.deselect
  | frame bytes received => exact h.frame (hp bytes List.mem_cons_self) _
  | poll _ polls => exact h.frame (bytes := [0x05]) rfl _

/-- Programs and erases are mutating commands. -/
theorem touchesArray_of_not_isMutating {f : List Byte} (h : isMutating f = false) : touchesArray f = false := by
  cases f with
  | nil => rfl
  | cons op _ =>
    simp only [isMutating, mutatingOpcodes, List.contains_cons, Bool.or_eq_false_iff] at h
    simp only [touchesArray, List.contains_cons, h]
    rfl

/-- An instruction that does not change the array sends no program and no erase. -/
theorem Sends.not_touchesArray {i : Instr} {frames : List (List Byte)} (h : Sends i frames)
    (hi : changesArray i = false) : ∀ f ∈ frames, touchesArray f = false := by
  cases h with
  | harmless _ all => exact fun f hf => touchesArray_of_not_isMutating (all_isHarmless_iff.mp all f hf).2
  | lone f _ _ array => simp [← array, hi]
  | template f _ array =>
    simp only [List.forall_mem_cons]
    exact ⟨rfl, array ▸ hi, rfl, nofun⟩
  | chunks _ _ array => simp [hi] at array

/-- Settles O56: none of the pieces of such an instruction changes the array. -/
theorem arrayKept : Obligations.ArrayKept := by
  unfold Obligations.ArrayKept
  intro i s t d hi hd inv h
  obtain ⟨tr, ran, emits⟩ := exec_ran i h
  have quiet : ∀ p ∈ tr.pieces, ∀ f ∈ p.sends, touchesArray f = false := fun p hp f hf =>
    emits.sends.not_touchesArray hi f (List.mem_flatMap.mpr ⟨p, hp, hf⟩)
  have fitted : s.env.HasArrayOf d := ⟨d, hd, rfl, rfl, (inv d hd).2.1⟩
  have kept : (tr.pieces.foldl Piece.run s.env).HasArrayOf d :=
    List.foldlRecOn tr.pieces Piece.run (motive := Environment.HasArrayOf d) fitted fun _ h p hp => h.run (quiet p hp)
  rw [← ran.env] at kept
  obtain ⟨d', hd', mem, cap, -⟩ := kept
  exact ⟨d', hd', mem, cap⟩

end Sys2Proof.Machine
end

section
/-! SUPPORT. Where an instruction ends and where it is stuck (R115, R289, U17), and the operations its checks end
(R220, R273). -/

namespace Sys2Proof.Machine

open Safety

/-! ### The checks -/

theorem State.effAddr_eq (s : State) (unit : AddrUnit) (index offset : Word) :
    s.effAddr unit index offset = index.toNat * s.unitSize unit + offset.toNat := rfl

theorem rangeBad_iff {s : State} {ea len : Nat} :
    s.rangeBad ea len = true ↔ s.config.rangeCheck = true ∧ s.capacity < ea + len := by
  rw [State.rangeBad, Bool.and_eq_true, decide_eq_true_eq]

theorem eraseRangeBad_iff {s : State} {ea : Nat} :
    s.eraseRangeBad ea = true ↔ s.config.rangeCheck = true ∧ s.capacity ≤ ea := by
  rw [State.eraseRangeBad, Bool.and_eq_true, decide_eq_true_eq]

/-- The checks of R220 let an array operation through exactly where neither of them ends it. -/
theorem accepted_iff {s : State} {unit : AddrUnit} {index offset len : Word} :
    accepted s unit index offset len ↔
      len ≠ 0 ∧ ¬ s.rangeBad (s.effAddr unit index offset) len.toNat = true := by
  rw [rangeBad_iff, accepted, State.effAddr_eq, not_and_or, Bool.not_eq_true, Nat.not_lt]

theorem eraseAccepted_iff {s : State} {unit : AddrUnit} {index offset : Word} :
    eraseAccepted s unit index offset ↔ ¬ s.eraseRangeBad (s.effAddr unit index offset) = true := by
  rw [eraseRangeBad_iff, eraseAccepted, State.effAddr_eq, not_and_or, Bool.not_eq_true, Nat.not_le]

/-- LOCK does not return exactly where the host has the primitive and never grants it (R115). -/
theorem lockReturns_eq_false_iff {s : State} :
    s.lockReturns = false ↔ s.config.straps.hasLock = true ∧ s.env.lockGrants = false := by
  rw [State.lockReturns, Bool.or_eq_false_iff, Bool.not_eq_false']

/-! ### Ending and being stuck -/

/-- The outcome is stuck in LOCK under the condition `c`, and a next state otherwise. -/
def StuckIf (c : Prop) (out : Out) : Prop :=
  (c ∧ out = .fault .lockNeverGranted) ∨ (¬ c ∧ ∃ t, out = .next t)

theorem StuckIf.next (t : State) : StuckIf False (.next t) := .inr ⟨id, t, rfl⟩

theorem StuckIf.of_iff {c c' : Prop} {out : Out} (h : StuckIf c out) (hc : c' ↔ c) : StuckIf c' out := by
  unfold StuckIf
  rw [hc]
  exact h

theorem StuckIf.ite {c c' p : Prop} [Decidable p] {out out' : Out} (h : StuckIf c out) (h' : StuckIf c' out') :
    StuckIf (p ∧ c ∨ ¬ p ∧ c') (if p then out else out') := by
  by_cases hp : p
  · rw [if_pos hp]
    exact h.of_iff (by simp [hp])
  · rw [if_neg hp]
    exact h'.of_iff (by simp [hp])

/-- A check that ends the operation stands before what the operation does. -/
theorem StuckIf.check {c bad : Prop} [Decidable bad] {out : Out} (t : State) (h : StuckIf c out) :
    StuckIf (¬ bad ∧ c) (if bad then .next t else out) :=
  (StuckIf.ite (.next t) h).of_iff (by simp)

theorem StuckIf.gate {c : Prop} {k : State → Out} {s : State} (h : StuckIf c (k s)) :
    StuckIf (s.initialized = true ∧ c) (gate s k) := by
  cases hi : s.initialized with
  | true =>
    rw [gate_of_initialized hi]
    exact h.of_iff (and_iff_right rfl)
  | false =>
    rw [gate_of_not_initialized hi]
    exact (StuckIf.next _).of_iff (iff_of_false (fun hc => nomatch hc.1) id)

/-- The lock bracket is the one place where an operation is stuck (R289, U17). -/
theorem StuckIf.withLock {k : State → Out} {s : State} (h : StuckIf False (k s.takeLock)) :
    StuckIf (s.lockReturns = false) (withLock s k) := by
  unfold Machine.withLock
  cases s.lockReturns with
  | true => exact h.of_iff (iff_of_false nofun id)
  | false => exact .inl ⟨rfl, rfl⟩

/-- An operation with no check of its own takes the lock past the gate. -/
theorem StuckIf.gate_withLock {k : State → Out} {s : State} (h : StuckIf False (k s.takeLock)) :
    StuckIf (s.initialized = true ∧ True ∧ s.lockReturns = false) (Machine.gate s fun s => Machine.withLock s k) :=
  (StuckIf.withLock h).gate.of_iff (by rw [true_and])

theorem mutating_stuckIf (cmd : State → State) (ms : Nat) (s : State) :
    StuckIf (s.lockReturns = false) (mutating cmd ms s) := .withLock (.next _)

/-- An addressed erase takes the lock past its range check (R240, R244). -/
theorem StuckIf.erase (cmd : State → Addr → State) (ms : Nat) (unit : AddrUnit) (index offset : Word) (s : State) :
    StuckIf (s.initialized = true ∧ eraseAccepted s unit index offset ∧ s.lockReturns = false)
      (Machine.gate s fun s => eraseAt cmd ms (s.effAddr unit index offset) s) := by
  rw [eraseAccepted_iff]
  exact (StuckIf.check _ (mutating_stuckIf _ ms s)).gate

/-- READ and IS_EMPTY take the lock past their two checks (R220). -/
theorem StuckIf.access {c : Prop} {out : Out} (t t' : State) {s : State} {unit : AddrUnit} {index offset len : Word}
    (h : StuckIf c out) :
    StuckIf (accepted s unit index offset len ∧ c)
      (if len = 0 then .next t
        else if s.rangeBad (s.effAddr unit index offset) len.toNat = true then .next t' else out) := by
  rw [accepted_iff, and_assoc]
  exact .check t (.check t' h)

/-- INIT and INIT_NOID past their first checks never take the lock (R180, R289). -/
theorem StuckIf.identify {s : State} {k : JedecId → State → Out} (hk : ∀ id u, StuckIf False (k id u)) :
    StuckIf False (Machine.identify s k) := by
  rw [identify_spec]
  exact (StuckIf.check _ (hk _ _)).of_iff (by simp)

theorem execInit_stuckIf (s : State) : StuckIf False (execInit s) := by
  have decoded : ∀ (id : JedecId) (u : State), StuckIf False
      (if u.model = .modelUnknown then u.raise .unknownDevice
        else if blockCountFits (Config.blockCountFromId u.readUid.config id) = true then
          .next (u.readUid.complete (Config.blockCountFromId u.readUid.config id))
        else u.readUid.raise .unknownDevice) := fun id u =>
    (StuckIf.check _ (StuckIf.ite (.next _) (.next _))).of_iff (by simp)
  exact (StuckIf.check _ (.check _ (.identify decoded))).of_iff (by simp)

theorem execInitNoid_stuckIf (bc : Word) (s : State) : StuckIf False (execInitNoid bc s) :=
  (StuckIf.check _ (.check _ (.check _ (.identify fun _ _ => .next _)))).of_iff (by simp)

/-- WRITE takes the lock past its three checks (R220). -/
theorem execWrite_stuckIf (unit : AddrUnit) (index offset len : Word) (data : List Byte) (s : State) :
    StuckIf (s.initialized = true ∧ (accepted s unit index offset len ∧ data.length = len.toNat) ∧
      s.lockReturns = false) (execWrite unit index offset len data s) := by
  have locked : StuckIf (s.lockReturns = false)
      (Machine.withLock s fun u => endWait (u.program (s.effAddr unit index offset) data)) := .withLock (.next _)
  refine (StuckIf.gate (.check _ (.check _ locked))).of_iff ?_
  rw [accepted_iff, not_or, not_ne_iff, and_assoc, and_assoc, and_assoc, and_left_comm (a := ¬ _ = true)]

theorem execRead_stuckIf (unit : AddrUnit) (index offset len : Word) (s : State) :
    StuckIf (s.initialized = true ∧ accepted s unit index offset len ∧ s.lockReturns = false)
      (execRead unit index offset len s) := by
  refine StuckIf.gate (StuckIf.access _ _ ?_)
  exact .withLock (.next _)

theorem execIsEmpty_stuckIf (unit : AddrUnit) (index offset len : Word) (s : State) :
    StuckIf (s.initialized = true ∧ accepted s unit index offset len ∧ s.lockReturns = false)
      (execIsEmpty unit index offset len s) := by
  refine StuckIf.gate (StuckIf.access _ _ ?_)
  exact (StuckIf.ite (.next _) (.inl ⟨trivial, rfl⟩)).of_iff (by simp)

theorem execWaitBusy_stuckIf (budget : Word) (s : State) :
    StuckIf (s.initialized = true ∧ budget.toNat * 1000 < 2 ^ 32 ∧ s.lockReturns = false)
      (execWaitBusy budget s) := by
  have locked : StuckIf (s.lockReturns = false)
      (Machine.withLock s fun u => endWait (u.wait budget.toNat)) := .withLock (.next _)
  refine StuckIf.gate ?_
  exact (StuckIf.ite locked (.next _)).of_iff (by simp [budgetFits, Params.counterLimit])

theorem convert_stuckIf (index : Word) (f g : State → Word) (s : State) : StuckIf False (convert index f g s) := by
  have ends : StuckIf (s.initialized = true ∧ False) (convert index f g s) := .gate (.next _)
  exact ends.of_iff (by simp)

/-- An instruction is stuck exactly where the block is initialized, it takes the lock, and LOCK does not return. -/
theorem exec_stuckIf (i : Instr) (s : State) :
    StuckIf (s.initialized = true ∧ takesLock s i ∧ s.lockReturns = false) (exec i s) := by
  cases i
  case wren | wrdi | rdp | dpd | rdid | ruid | fread | pp | se | be32 | be64 | ce | rdsr1 | rdsr2 | rdsr3 | wrsr1
      | wrsr2 | wrsr3 | idManufacturer | idModel | idBlockcount =>
    exact (StuckIf.next _).of_iff (by simp [takesLock])
  case poll => exact (StuckIf.ite (.next _) (.next _)).of_iff (by simp [takesLock])
  case init => exact (execInit_stuckIf s).of_iff (by simp [takesLock])
  case initNoid bc => exact (execInitNoid_stuckIf bc s).of_iff (by simp [takesLock])
  case pageToSector | pageToBlock | sectorToBlock | sectorToPage | blockToPage | blockToSector =>
    exact (convert_stuckIf ..).of_iff (by simp [takesLock])
  case enterPd => exact StuckIf.gate_withLock ((StuckIf.check _ (.next _)).of_iff (by simp))
  case exitPd | rdSr1 | rdSr2 | rdSr3 | wrSr1 | wrSr2 | wrSr3 | eraseChip | writeEnable | writeDisable | rdJedec
      | rdUid =>
    exact StuckIf.gate_withLock (.next _)
  case erase4k | erase32k | erase64k => exact StuckIf.erase ..
  case read => exact execRead_stuckIf ..
  case write => exact execWrite_stuckIf ..
  case isEmpty => exact execIsEmpty_stuckIf ..
  case waitBusy => exact execWaitBusy_stuckIf ..

/-- Settles O20: the one stop of an instruction is a LOCK that does not return. -/
theorem everyOperationEnds : Obligations.EveryOperationEnds := by
  unfold Obligations.EveryOperationEnds
  refine ⟨fun i s hl => ?_, fun i s => ?_, fun _ => lockReturns_eq_false_iff, fun i s r => ?_⟩
  · obtain ⟨⟨-, -, hl'⟩, -⟩ | ⟨-, t, h⟩ := exec_stuckIf i s
    · simp [hl] at hl'
    · obtain ⟨_, ran, -⟩ := exec_ran i h
      exact ⟨t, h, ran.seq⟩
  · rw [← lockReturns_eq_false_iff]
    obtain ⟨hc, h⟩ | ⟨hc, t, h⟩ := exec_stuckIf i s
    · exact iff_of_true h hc
    · exact iff_of_false (by simp [h]) hc
  · obtain ⟨-, h⟩ | ⟨-, t, h⟩ := exec_stuckIf i s <;> simp [h]

/-! ### Operand errors -/

theorem State.capacity_eq (s : State) : s.capacity = min s.totalSize.toNat (2 ^ 24) := rfl

/-- Settles O23: past the gate the first check that fails ends the operation. -/
theorem operandErrors : Obligations.OperandErrors := by
  unfold Obligations.OperandErrors
  intro s unit index offset len data hi
  simp only [exec, execRead, execWrite, execIsEmpty, execErase4k, execErase32k, execErase64k, eraseAt,
    gate_of_initialized hi]
  rw [← State.capacity_eq, ← State.effAddr_eq]
  refine ⟨fun h0 => ⟨if_pos h0, if_pos h0⟩, fun h0 => if_pos h0, fun on h0 past => ?_, fun on past => ?_,
    fun geometry => ?_, rfl, rfl⟩
  · have bad : s.rangeBad (s.effAddr unit index offset) len.toNat = true := rangeBad_iff.mpr ⟨on, past⟩
    rw [if_neg h0, if_pos bad]
    refine ⟨rfl, ?_, fun hlen => ?_⟩
    · rw [if_neg h0, if_pos bad]
      rfl
    · rw [if_neg (not_or.mpr ⟨h0, not_not.mpr hlen⟩), if_pos bad]
      rfl
  · have bad : s.eraseRangeBad (s.effAddr unit index offset) = true := eraseRangeBad_iff.mpr ⟨on, past⟩
    simp only [if_pos bad]
    exact ⟨rfl, rfl, rfl⟩
  · obtain ⟨page, sector, block, -⟩ := geometry
    exact ⟨rfl, page, sector, block⟩

end Sys2Proof.Machine
end

section
/-! SUPPORT. Address bytes, id assembly and what the environment answers (R52 to R54, R71, R72). -/

namespace Sys2Proof.Machine

open Safety

/-! ### Address bytes and ids -/

/-- A frame carries an effective address modulo 2^24 (R82). -/
theorem frameAddr_toNat (ea : Nat) : (frameAddr ea).toNat = ea % 2 ^ 24 := BitVec.toNat_ofNat ..

/-- Settles O6: the encoder puts the bytes right after the opcode; the bytes of an effective address are its own. -/
theorem addressBytes : Obligations.AddressBytes := by
  unfold Obligations.AddressBytes
  refine ⟨fun a n p => ?_, fun ea => ⟨frameAddr_toNat ea, ?_⟩⟩
  · simp only [List.forall_mem_cons]
    exact ⟨⟨_, _, _, rfl⟩, ⟨_, _, _, rfl⟩, ⟨_, _, _, rfl⟩, ⟨_, _, _, rfl⟩, ⟨_, _, _, rfl⟩, nofun⟩
  · have byte : ∀ k, k + 8 ≤ 24 → (frameAddr ea).extractLsb' k 8 = BitVec.ofNat 8 (ea / 2 ^ k) := by
      intro k hk
      apply BitVec.eq_of_getLsbD_eq
      intro j hj
      simp only [frameAddr, BitVec.getLsbD_extractLsb', BitVec.getLsbD_ofNat, Nat.testBit_div_two_pow, hj, decide_true,
        Bool.true_and, Nat.add_comm k j, show j + k < 24 by omega]
    simp only [addrBytes, byte, Nat.reduceLeDiff, Nat.pow_zero, Nat.div_one]

/-- Bytes put side by side make the number with the one on the right lowest. -/
theorem toNat_append_byte {w : Nat} (hi : BitVec w) (lo : Byte) : (hi ++ lo).toNat = hi.toNat * 2 ^ 8 + lo.toNat := by
  rw [BitVec.toNat_append, Nat.shiftLeft_eq, Nat.mul_comm, Nat.two_pow_add_eq_or_of_lt lo.isLt]

/-- Settles O7: the received bytes are put side by side. -/
theorem idAssembly : Obligations.IdAssembly := by
  unfold Obligations.IdAssembly
  refine ⟨fun r0 r1 r2 => ?_, fun u0 u1 u2 u3 u4 u5 u6 u7 => ?_⟩
  · simp only [jedecOfBytes, List.getD_cons_zero, List.getD_cons_succ, toNat_append_byte]
    omega
  · simp only [uidOfBytes, List.getD_cons_zero, List.getD_cons_succ, toNat_append_byte]
    omega

/-! ### The scripted oracle -/

/-- With no device fitted the script answers, in order (R71). -/
theorem answers_of_script (n : Nat) (e : Environment) (hd : e.device = none) (hn : n ≤ e.script.length) :
    Environment.answers n e =
      (e.script.take n, { e with script := e.script.drop n, received := e.received + n }) := by
  induction n generalizing e with
  | zero => rfl
  | succ n ih =>
    obtain ⟨b, rest, hs⟩ := List.exists_cons_of_length_pos (Nat.lt_of_lt_of_le n.succ_pos hn)
    have one : e.answer = (b, { e with script := rest, received := e.received + 1 }) := by
      simp only [Environment.answer, hd, hs]
    rw [hs, List.length_cons, Nat.add_le_add_iff_right] at hn
    rw [answers_succ, one, ih { e with script := rest, received := e.received + 1 } hd hn, hs, Nat.add_assoc,
      Nat.add_comm 1 n]
    rfl

/-- Settles O26: the length is that of any answer; without a device the frame itself changes nothing. -/
theorem oracleAnswers : Obligations.OracleAnswers := by
  unfold Obligations.OracleAnswers
  refine fun e bytes n => ⟨e.frame_length bytes n, fun hd hn => ?_⟩
  have undisturbed : e.select.send bytes = e := by
    cases e
    subst hd
    rfl
  rw [Environment.frame, undisturbed, answers_of_script n e hd hn]
  cases e
  subst hd
  rfl

/-! ### Reading the device -/

/-- The address read from the three bytes of an address is that address (R52, R82). -/
theorem addrOfBytes_addrBytes (a : Addr) :
    addrOfBytes (a.extractLsb' 16 8) (a.extractLsb' 8 8) (a.extractLsb' 0 8) = a := by
  apply BitVec.eq_of_toNat_eq
  rw [addrOfBytes, toNat_append_byte, toNat_append_byte]
  simp only [BitVec.extractLsb'_toNat, Nat.shiftRight_eq_div_pow]
  omega

/-- An awake device in a fast read answers the array from the frame's address on, modulo CAPDEV (R55, R72). -/
theorem answers_of_fastRead (n : Nat) (e : Environment) (d : RefDevice) (a : Addr) (hd : e.device = some d)
    (awake : d.dpd = false) (ht : d.txSeen = 0x0B :: addrBytes a ++ [0x00]) :
    (Environment.answers n e).1 =
      (List.range' d.rxSeen n).map fun k => Memory.read d.mem ((a.toNat + k) % d.capDev) := by
  induction n generalizing e d with
  | zero => rfl
  | succ n ih =>
    have answer : d.awakeAnswer = some (Memory.read d.mem ((a.toNat + d.rxSeen) % d.capDev)) := by
      simp [RefDevice.awakeAnswer, ht, addrBytes, addrOfBytes_addrBytes]
    have one : d.clockOut =
        (some (Memory.read d.mem ((a.toNat + d.rxSeen) % d.capDev)), { d with rxSeen := d.rxSeen + 1 }) := by
      simp [RefDevice.clockOut, awake, answer, ht]
    rw [answers_succ, List.range'_succ, List.map_cons]
    simp only [Environment.answer, hd, one]
    rw [ih _ { d with rxSeen := d.rxSeen + 1 } rfl awake ht]
    rfl

/-- What a fast-read frame receives from an awake device. -/
theorem frame_fastRead {e : Environment} {d : RefDevice} (a : Addr) (n : Nat) (hd : e.device = some d)
    (awake : d.dpd = false) :
    (e.frame (0x0B :: addrBytes a ++ [0x00]) n).1 =
      (List.range n).map fun k => Memory.read d.mem ((a.toNat + k) % d.capDev) := by
  have fitted : (e.select.send (0x0B :: addrBytes a ++ [0x00])).device =
      some (d.select.send (0x0B :: addrBytes a ++ [0x00])) := by
    simp only [Environment.select, Environment.send, hd, Option.map_some]
  rw [Environment.frame, List.range_eq_range']
  exact answers_of_fastRead n _ _ a fitted awake rfl

/-- A READ that passes its checks is one fast-read frame in the lock bracket, and returns what it received (R222). -/
theorem execRead_of_accepted {s : State} {unit : AddrUnit} {index offset len : Word} (hi : s.initialized = true)
    (hl : s.lockReturns = true) (h : accepted s unit index offset len) :
    let bytes := 0x0B :: addrBytes (frameAddr (s.effAddr unit index offset)) ++ [0x00]
    let f := s.env.frame bytes len.toNat
    execRead unit index offset len s = .next { s with
      trace := s.trace ++ bracketed s (frameEvents bytes f.1)
      env := f.2
      result := Result.ofData f.1
      seq := .idle } := by
  obtain ⟨h0, checked⟩ := accepted_iff.mp h
  rw [execRead, gate_of_initialized hi]
  simp only [if_neg h0, if_neg checked, withLock_of_returns hl, State.cmdFread, State.takeLock_frame_fst]
  exact congrArg _ (s.locked_frame_spec _ len.toNat none none none _)

/-- Settles O57: READ returns what its one fast-read frame receives. -/
theorem readReturnsArray : Obligations.ReadReturnsArray := by
  unfold Obligations.ReadReturnsArray
  intro s unit index offset len d hi hl hd awake ea h0 fits
  have received := frame_fastRead (frameAddr ea) len.toNat hd awake
  rw [frameAddr_toNat] at received
  exact ⟨_, execRead_of_accepted hi hl ⟨h0, fits⟩, congrArg Result.ofData received⟩

end Sys2Proof.Machine
end

section
/-! SUPPORT. What the reference device does with the frames that change the array (R55, R57, R60, R72). -/

namespace Sys2Proof.Machine

open Safety

/-- A page program is carried out by a device that is awake and has its latch set (R72). -/
theorem RefDevice.act_program (d : RefDevice) (a : Addr) (p : List Byte) :
    d.act (0x02 :: addrBytes a ++ p) =
      if d.dpd || !d.wel then d
      else { d with mem := Memory.program d.mem d.capDev a.toNat p }.startCycle := by
  have bytes : addrBytes a = [a.extractLsb' 16 8, a.extractLsb' 8 8, a.extractLsb' 0 8] := rfl
  cases hd : d.dpd <;> cases hw : d.wel <;> simp [act, mutate, bytes, addrOfBytes_addrBytes, hd, hw]

/-- A page program leaves the array, or is carried out (R72). -/
theorem RefDevice.act_program_cases (d : RefDevice) (a : Addr) (p : List Byte) :
    (d.act (0x02 :: addrBytes a ++ p)).capDev = d.capDev ∧
      ((d.act (0x02 :: addrBytes a ++ p)).mem = d.mem ∨
        (d.act (0x02 :: addrBytes a ++ p)).mem = Memory.program d.mem d.capDev a.toNat p) := by
  rw [act_program]
  split
  · exact ⟨rfl, .inl rfl⟩
  · exact ⟨rfl, .inr rfl⟩

/-- The opcodes of the addressed erases, each with the size of its region (R57, R58). -/
def eraseRegions : List (Byte × Nat) := [(0x20, 4096), (0x52, 32768), (0xD8, 65536)]

/-- An erase of an awake device with its latch set sets the aligned region that holds its address (R57, R72). -/
theorem RefDevice.act_erase {op : Byte} {size : Nat} (h : (op, size) ∈ eraseRegions) {d : RefDevice} (a : Addr)
    (awake : d.dpd = false) (latch : d.wel = true) :
    (d.act (op :: addrBytes a)).mem = Memory.erase d.mem (a.toNat - a.toNat % size) size := by
  have bytes : addrBytes a = [a.extractLsb' 16 8, a.extractLsb' 8 8, a.extractLsb' 0 8] := rfl
  simp only [eraseRegions, List.mem_cons, Prod.mk.injEq, List.not_mem_nil, or_false] at h
  obtain ⟨rfl, rfl⟩ | ⟨rfl, rfl⟩ | ⟨rfl, rfl⟩ := h <;>
    simp [act, mutate, bytes, addrOfBytes_addrBytes, awake, latch, startCycle, eraseRegion]

theorem RefDevice.act_chipErase {d : RefDevice} (awake : d.dpd = false) (latch : d.wel = true) :
    (d.act [0xC7]).mem = [] := by
  simp [act, mutate, awake, latch, startCycle]

/-- The aligned region that holds an address is the addresses of the same quotient. -/
theorem mem_region_iff {size : Nat} (h : 0 < size) (a x : Nat) :
    a - a % size ≤ x ∧ x < a - a % size + size ↔ x / size = a / size := by
  rw [← Nat.div_mul_self_eq_mod_sub_self, Nat.div_eq_iff h]
  omega

theorem RefDevice.deselect_mem (d : RefDevice) : d.deselect.mem = (d.act d.txSeen).mem := rfl

/-- A lone frame that receives nothing leaves a fitted device that acted on it. -/
theorem lone_frame_device {s : State} {d : RefDevice} (hd : s.env.device = some d) (bytes : List Byte) :
    ((s.sendFrame bytes).finish Result.zero).env.device =
      some (RefDevice.deselect { d with txSeen := bytes, rxSeen := 0 }) := by
  rw [State.finish_env, State.sendFrame_spec]
  exact frame_device_sent s.env bytes d hd

/-- After a lone erase frame its region reads erased and every other byte as before (R57, R60). -/
theorem lone_erase_reads {op : Byte} {size : Nat} (h : (op, size) ∈ eraseRegions) {s : State} {d : RefDevice}
    (a : Addr) (hd : s.env.device = some d) (awake : d.dpd = false) (latch : d.wel = true) :
    ∃ d', ((s.sendFrame (op :: addrBytes a)).finish Result.zero).env.device = some d' ∧
      ∀ x, Memory.read d'.mem x = if x / size = a.toNat / size then 0xFF else Memory.read d.mem x := by
  have pos : 0 < size := by
    simp only [eraseRegions, List.mem_cons, Prod.mk.injEq, List.not_mem_nil, or_false] at h
    omega
  have erased := RefDevice.act_erase h (d := { d with txSeen := op :: addrBytes a, rxSeen := 0 }) a awake latch
  refine ⟨_, lone_frame_device hd _, fun x => ?_⟩
  rw [RefDevice.deselect_mem, erased, Memory.read_erase, if_congr (mem_region_iff pos _ x) rfl rfl]
  rfl

/-- Settles O58: the device carries the frame out, and the laws of the array say what each byte then is. -/
theorem arrayFrames : Obligations.ArrayFrames := by
  unfold Obligations.ArrayFrames
  intro s d a p hd wf awake latch
  have erased := RefDevice.act_chipErase (d := { d with txSeen := [0xC7], rxSeen := 0 }) awake latch
  refine ⟨fun fits => ⟨_, _, rfl, lone_frame_device hd _, fun x => ?_⟩, ?_,
    _, _, rfl, lone_frame_device hd _, fun x => ?_⟩
  · rw [RefDevice.deselect_mem, RefDevice.act_program]
    simp only [awake, latch]
    exact Memory.read_program d.capDev a.toNat p wf fits x
  · intro i size h
    simp only [List.mem_cons, Prod.mk.injEq, List.not_mem_nil, or_false] at h
    obtain ⟨rfl, rfl⟩ | ⟨rfl, rfl⟩ | ⟨rfl, rfl⟩ := h <;>
      exact ⟨_, (lone_erase_reads (by decide) a hd awake latch).imp fun _ h => ⟨rfl, h⟩⟩
  · rw [RefDevice.deselect_mem, erased]
    rfl

end Sys2Proof.Machine
end

section
/-! SUPPORT. WRITE: how it ends, the chunks it sends and the bytes it stores (R55, R223, R224). -/

namespace Sys2Proof.Machine

open Safety

/-! ### How a WRITE ends -/

/-- The end of the splitter after its chunks `runs`, which left `left` of the data and the environment `e`: a final
wait over all the data, or the failed wait of the last chunk (R223, D20). `last` is the last byte polled, `body` the
events after the chunks, `e'` the environment at the end. -/
inductive ProgramEnd (runs : List ChunkRun) (left : List Byte) (e : Environment) (last : Byte) :
    ErrorKind → Nat → List Event → Environment → Prop where
  | waited (dummy : Byte) (before : List Byte) (status : ErrorKind) (remaining : Nat) (e' : Environment)
      (all : left = []) (chunks : ∀ c ∈ runs, ∃ r, WaitsAs 500 c.polls .ok r)
      (answered : (dummy :: (before ++ [last]), e') = e.frame [0x05] (before.length + 2))
      (waits : WaitsAs 500 (before ++ [last]) status remaining) :
      ProgramEnd runs left e last status remaining (pollEvents dummy (before ++ [last])) e'
  | failed (init : List ChunkRun) (c : ChunkRun) (before : List Byte) (split : runs = init ++ [c])
      (polls : c.polls = before ++ [last]) (chunks : ∀ c ∈ init, ∃ r, WaitsAs 500 c.polls .ok r)
      (waits : WaitsAs 500 c.polls .fail 0) :
      ProgramEnd runs left e last .fail 0 [] e

/-- The splitter in full: its chunks, then its end; nothing but S.sr1, the trace and the environment changes (R223). -/
theorem State.program_spec (s : State) (ea : Nat) (data : List Byte) (hp : 0 < s.pageSize.toNat) :
    ∃ runs left e last status remaining body e',
      s.program ea data = ((status, remaining), { s with
        sr1 := last
        trace := s.trace ++ (runs.flatMap chunkEvents ++ body)
        env := e' }) ∧
      ChunksFrom s.pageSize.toNat s.env ea data runs left e ∧
      ProgramEnd runs left e last status remaining body e' := by
  obtain ⟨runs, left, st, v, e, loop, chunks, ⟨rfl, all, ok⟩ | ⟨rfl, init, c, before, split, polls, ok, fail⟩⟩ :=
    writeLoop_spec data.length ea data s hp (Nat.le_refl _)
  · obtain ⟨dummy, before, last, status, remaining, answered, waits, wait⟩ :=
      State.wait_spec { s with sr1 := v, trace := s.trace ++ runs.flatMap chunkEvents, env := e } Params.tPpMs
    refine ⟨runs, left, e, last, status, remaining, _, _, ?_, chunks,
      .waited dummy before status remaining _ all ok (Prod.ext answered rfl) waits⟩
    rw [State.program, loop]
    simp only [reduceCtorEq, if_false, wait, List.append_assoc]
  · refine ⟨runs, left, e, v, .fail, 0, [], e, ?_, chunks, .failed init c before split polls ok fail⟩
    rw [State.program, loop]
    simp only [if_true, List.append_nil]

/-- The splitter in its lock bracket, and the end of the operation (R211, R223). -/
theorem endWait_program_spec (s : State) (ea : Nat) (data : List Byte) (hp : 0 < s.pageSize.toNat) :
    ∃ runs left e last status remaining body e',
      endWait (s.takeLock.program ea data) = .next { s with
        sr1 := last
        trace := s.trace ++ bracketed s (runs.flatMap chunkEvents ++ body)
        env := e'
        result := Result.ofWait status remaining
        seq := .idle } ∧
      ChunksFrom s.pageSize.toNat s.env ea data runs left e ∧
      ProgramEnd runs left e last status remaining body e' := by
  obtain ⟨runs, left, e, last, status, remaining, body, e', splitter, chunks, ending⟩ :=
    s.takeLock.program_spec ea data (by rwa [State.takeLock_pageSize])
  rw [State.takeLock_pageSize, State.takeLock_env] at chunks
  refine ⟨runs, left, e, last, status, remaining, body, e', ?_, chunks, ending⟩
  rw [splitter, endWait]
  simp only [State.takeLock_spec, State.dropLock_spec, State.finish_spec, bracketed, unlockEvents, List.append_assoc]

/-- A WRITE ends before any event, or in the splitter's wait in its lock bracket (R220, R223). -/
theorem execWrite_next {s t : State} {unit : AddrUnit} {index offset len : Word} {data : List Byte}
    (h : execWrite unit index offset len data s = .next t) :
    (∃ r, t = s.finish r) ∨ endWait (s.takeLock.program (s.effAddr unit index offset) data) = .next t := by
  rcases gate_next h with ⟨-, h⟩ | ⟨-, h⟩
  · simp only at h
    split at h
    · injection h with h
      exact .inl ⟨_, h.symm⟩
    · split at h
      · injection h with h
        exact .inl ⟨_, h.symm⟩
      · exact .inr (withLock_next h).2
  · exact .inl ⟨_, h⟩

/-- A WRITE that passes its checks ends in the splitter's wait in its lock bracket (R220, R223). -/
theorem execWrite_of_accepted {s : State} {unit : AddrUnit} {index offset len : Word} {data : List Byte}
    (hi : s.initialized = true) (hl : s.lockReturns = true) (h : accepted s unit index offset len)
    (hd : data.length = len.toNat) :
    execWrite unit index offset len data s = endWait (s.takeLock.program (s.effAddr unit index offset) data) := by
  obtain ⟨h0, checked⟩ := accepted_iff.mp h
  have whole : ¬ (len = 0 ∨ data.length ≠ len.toNat) := not_or.mpr ⟨h0, not_not.mpr hd⟩
  rw [execWrite, gate_of_initialized hi]
  simp only [if_neg whole, if_neg checked, withLock_of_returns hl]

/-! ### The chunk law -/

/-- The frames of the end of the splitter: the final poll, or none (R223). -/
theorem ProgramEnd.txFrames {runs : List ChunkRun} {left : List Byte} {e e' : Environment} {last : Byte}
    {status : ErrorKind} {remaining : Nat} {body : List Event}
    (h : ProgramEnd runs left e last status remaining body e') :
    (status = .ok → left = [] ∧ txFrames body = [[0x05]]) ∧
      (txFrames body).filter (fun f => f.head? == some 0x02) = [] := by
  cases h with
  | waited dummy before _ _ _ all =>
    rw [txFrames_pollEvents]
    exact ⟨fun _ => ⟨all, rfl⟩, rfl⟩
  | failed => exact ⟨nofun, rfl⟩

/-- The page-program frames among the frames of some chunks are those of the chunks (R224). -/
theorem filter_program_chunks (runs : List ChunkRun) :
    (runs.flatMap fun c => [[0x06], c.frame, [0x05]]).filter (fun f => f.head? == some 0x02) =
      runs.map ChunkRun.frame := by
  induction runs with
  | nil => rfl
  | cons c rest ih =>
    rw [List.flatMap_cons, List.filter_append, ih]
    rfl

/-- A chunk as the chunk law speaks of it: its address and its bytes. -/
def chunkOf (c : ChunkRun) : Nat × List Byte := (c.addr, c.payload)

theorem flatMap_snd_chunkOf (runs : List ChunkRun) :
    (runs.map chunkOf).flatMap Prod.snd = runs.flatMap ChunkRun.payload := List.flatMap_map ..

/-- Settles O38: the chunks are those of the splitter, and the laws of `ChunksFrom` say where they lie. -/
theorem chunkLaw : Obligations.ChunkLaw := by
  unfold Obligations.ChunkLaw
  intro s unit index offset len data hi hl geometry ea program h0 hd fits
  obtain ⟨page, -⟩ := geometry
  obtain ⟨runs, left, e, last, status, remaining, body, e', run, chunks, ending⟩ :=
    endWait_program_spec s ea data (by omega)
  rw [page] at chunks
  obtain ⟨inPage, aligned⟩ := chunks.inPage
  obtain ⟨complete, quiet⟩ := ending.txFrames
  have frames : txFrames (bracketed s (runs.flatMap chunkEvents ++ body)) =
      (runs.flatMap fun c => [[0x06], c.frame, [0x05]]) ++ txFrames body := by
    rw [txFrames_bracketed, txFrames_append, txFrames_chunks]
  have nonempty : data ≠ [] := by
    rintro rfl
    exact h0 (BitVec.eq_of_toNat_eq hd.symm)
  refine ⟨_, bracketed s (runs.flatMap chunkEvents ++ body), runs.map chunkOf,
    (execWrite_of_accepted hi hl ⟨h0, fits⟩ hd).trans run, rfl, ?_, ?_, ?_, ?_, ?_, ?_⟩
  · rw [frames, List.filter_append, filter_program_chunks, quiet, List.append_nil, List.map_map]
    rfl
  · rw [flatMap_snd_chunkOf, ← chunks.payloads]
    exact List.prefix_append ..
  · exact List.forall_mem_map.mpr inPage
  · rw [← List.map_tail]
    exact List.forall_mem_map.mpr aligned
  · intro k hk
    rw [List.length_map] at hk
    rw [List.getElem_map, ← List.map_take, flatMap_snd_chunkOf]
    exact chunks.addr k hk
  · intro ok
    obtain ⟨rfl, poll⟩ := complete ok
    rw [frames, poll, flatMap_snd_chunkOf, List.length_map, List.flatMap_map]
    refine ⟨?_, chunks.count nonempty, rfl, ?_⟩
    · rw [← chunks.payloads, List.append_nil]
    · rw [List.length_append, List.length_flatMap]
      simp [Nat.mul_comm]

/-! ### The bytes a WRITE stores -/

/-- A device of the capacity of `d` is fitted, its array canonical and, at the addresses of `outside`, that of `d`. -/
def Environment.KeepsOutside (d : RefDevice) (outside : Nat → Prop) (e : Environment) : Prop :=
  ∃ d', e.device = some d' ∧ Memory.wf d'.mem = true ∧ d'.capDev = d.capDev ∧
    ∀ x, outside x → Memory.read d'.mem x = Memory.read d.mem x

section
variable {d : RefDevice} {outside : Nat → Prop} {e : Environment} (h : e.KeepsOutside d outside)
include h

/-- A frame that is no program and no erase keeps the whole array. -/
theorem Environment.KeepsOutside.frame {bytes : List Byte} (hb : touchesArray bytes = false) (n : Nat) :
    (e.frame bytes n).2.KeepsOutside d outside := by
  obtain ⟨d', hd, wf, cap, kept⟩ := h
  obtain ⟨d₁, after, mem₁, cap₁, rfl, -⟩ := frame_device e bytes n d' hd
  obtain ⟨mem₂, cap₂⟩ := d₁.act_other d₁.txSeen hb
  have mem : d₁.deselect.mem = d'.mem := mem₂.trans mem₁
  exact ⟨d₁.deselect, after, mem ▸ wf, cap₂.trans (cap₁.trans cap), mem ▸ kept⟩

/-- A page program keeps every byte but those at its addresses, as the device has them (R55, R72). -/
theorem Environment.KeepsOutside.program (a : Addr) (p : List Byte)
    (hx : ∀ x, outside x → ∀ j < p.length, (a.toNat + j) % d.capDev ≠ x) :
    (e.frame (0x02 :: addrBytes a ++ p) 0).2.KeepsOutside d outside := by
  obtain ⟨d', hd, wf, cap, kept⟩ := h
  obtain ⟨d₁, after, mem₁, cap₁, seen, -⟩ := frame_device e (0x02 :: addrBytes a ++ p) 0 d' hd
  obtain ⟨cap₂, programmed⟩ := d₁.act_program_cases a p
  have array : Memory.wf d₁.deselect.mem = true ∧
      ∀ x, outside x → Memory.read d₁.deselect.mem x = Memory.read d'.mem x := by
    rw [RefDevice.deselect_mem, seen]
    rcases programmed with mem | mem <;> rw [mem, mem₁]
    · exact ⟨wf, fun _ _ => rfl⟩
    · refine ⟨Memory.program_wf _ _ _ wf, fun x ho => Memory.read_program_other _ _ _ wf x ?_⟩
      rw [cap₁, cap]
      exact hx x ho
  obtain ⟨wf', reads⟩ := array
  rw [← seen] at cap₂
  exact ⟨d₁.deselect, after, wf', cap₂.trans (cap₁.trans cap), fun x ho => (reads x ho).trans (kept x ho)⟩

/-- The chunks of a WRITE keep every byte but those at the addresses of its data (R223, R224). -/
theorem Environment.KeepsOutside.chunks {a : Nat} {data left : List Byte} {runs : List ChunkRun} {e' : Environment}
    (hc : ChunksFrom 256 e a data runs left e')
    (hx : ∀ x, outside x → ∀ j < data.length, (a + j) % 2 ^ 24 % d.capDev ≠ x) : e'.KeepsOutside d outside := by
  induction runs generalizing e a data with
  | nil =>
    obtain ⟨-, rfl⟩ := hc
    exact h
  | cons c rest ih =>
    obtain ⟨-, rfl, payload, -, hrest⟩ := hc
    have len : c.payload.length = min (256 - c.addr % 256) data.length := by rw [payload, List.length_take]
    have sent : (c.sent e).KeepsOutside d outside := by
      refine Environment.KeepsOutside.program (h.frame rfl 0) _ _ fun x ho j hj => ?_
      have room : (frameAddr c.addr).toNat + j = (c.addr + j) % 2 ^ 24 := by
        rw [frameAddr_toNat]
        omega
      rw [room]
      exact hx x ho j (by omega)
    refine ih (sent.frame (bytes := [0x05]) rfl _) hrest fun x ho j hj => ?_
    rw [List.length_drop] at hj
    rw [Nat.add_assoc]
    exact hx x ho _ (by omega)

end

/-- Settles O59: the chunks store at the addresses of the data only, and the final wait stores nothing. -/
theorem writeArrayFrame : Obligations.WriteArrayFrame := by
  unfold Obligations.WriteArrayFrame
  intro s t unit index offset len data d d' geometry hd wf h hd' ea x hx
  obtain ⟨page, -⟩ := geometry
  have start : s.env.KeepsOutside d fun x => ∀ j < data.length, (ea + j) % 2 ^ 24 % d.capDev ≠ x :=
    ⟨d, hd, wf, rfl, fun _ _ => rfl⟩
  have kept : t.env.KeepsOutside d fun x => ∀ j < data.length, (ea + j) % 2 ^ 24 % d.capDev ≠ x := by
    rcases execWrite_next h with ⟨r, rfl⟩ | h
    · exact start
    · obtain ⟨runs, left, e, last, status, remaining, body, e', run, chunks, ending⟩ :=
        endWait_program_spec s ea data (by omega)
      rw [page] at chunks
      have programmed := start.chunks chunks fun _ ho => ho
      obtain rfl := Host.Outcome.next.inj (run.symm.trans h)
      cases ending with
      | waited dummy before _ _ _ _ _ answered =>
        obtain rfl : e' = _ := congrArg Prod.snd answered
        exact programmed.frame (bytes := [0x05]) rfl (before.length + 2)
      | failed => exact programmed
  obtain ⟨d₁, fitted, -, -, reads⟩ := kept
  obtain rfl : d₁ = d' := Option.some.inj (fitted.symm.trans hd')
  exact reads x hx

end Sys2Proof.Machine
end

section
/-! SUPPORT. The command word's fields, and the decoders on what the encoder makes (R81 to R90). -/

namespace Sys2Proof

/-! ### The fields of a command word -/

/-- A command word from its fields, with any bits 15:10 (Table R86). -/
def fieldWord (op : Byte) (unit : AddrUnit) (index offset len arg : Word) (unused : BitVec 6) : CmdWord :=
  arg ++ len ++ offset ++ index ++ unused ++ unit.code ++ op

/-- The encoder's command words have bits 15:10 zero. -/
theorem commandWord_eq_fieldWord (op : Byte) (unit : AddrUnit) (index offset len arg : Word) :
    commandWord op unit index offset len arg = fieldWord op unit index offset len arg 0 := rfl

theorem AddrUnit.ofCode_code (unit : AddrUnit) : AddrUnit.ofCode unit.code = unit := by
  cases unit <;> rfl

/-- What stands at bit 16 or above is read off the four 32-bit fields alone. -/
theorem extractLsb'_fieldWord_of_le {op : Byte} {unit : AddrUnit} {index offset len arg : Word} {unused : BitVec 6}
    {start n : Nat} (h : 16 ≤ start) :
    (fieldWord op unit index offset len arg unused).extractLsb' start n =
      (arg ++ len ++ offset ++ index).extractLsb' (start - 16) n := by
  rw [fieldWord, BitVec.extractLsb'_append_eq_of_le (by omega), BitVec.extractLsb'_append_eq_of_le (by omega),
    BitVec.extractLsb'_append_eq_of_le (by omega), Nat.sub_sub, Nat.sub_sub]

section
variable (op : Byte) (unit : AddrUnit) (index offset len arg : Word) (unused : BitVec 6)

/-- What stands at bit 112 or above is read off arg. -/
theorem extractLsb'_fieldWord_arg (n : Nat) :
    (fieldWord op unit index offset len arg unused).extractLsb' 112 n = arg.extractLsb' 0 n := by
  rw [extractLsb'_fieldWord_of_le (by omega), BitVec.extractLsb'_append_eq_of_le (by omega),
    BitVec.extractLsb'_append_eq_of_le (by omega), BitVec.extractLsb'_append_eq_of_le (by omega)]

@[simp] theorem opSel_fieldWord : CmdWord.opSel (fieldWord op unit index offset len arg unused) = op :=
  BitVec.extractLsb'_append_eq_right

@[simp] theorem unit_fieldWord : CmdWord.unit (fieldWord op unit index offset len arg unused) = unit := by
  rw [CmdWord.unit, fieldWord, BitVec.extractLsb'_append_eq_of_le (by omega)]
  exact (congrArg _ BitVec.extractLsb'_append_eq_right).trans unit.ofCode_code

@[simp] theorem index_fieldWord : CmdWord.index (fieldWord op unit index offset len arg unused) = index := by
  rw [CmdWord.index, extractLsb'_fieldWord_of_le (by omega)]
  exact BitVec.extractLsb'_append_eq_right

@[simp] theorem offset_fieldWord : CmdWord.offset (fieldWord op unit index offset len arg unused) = offset := by
  rw [CmdWord.offset, extractLsb'_fieldWord_of_le (by omega),
    BitVec.extractLsb'_append_eq_of_le (by omega)]
  exact BitVec.extractLsb'_append_eq_right

@[simp] theorem len_fieldWord : CmdWord.len (fieldWord op unit index offset len arg unused) = len := by
  rw [CmdWord.len, extractLsb'_fieldWord_of_le (by omega),
    BitVec.extractLsb'_append_eq_of_le (by omega), BitVec.extractLsb'_append_eq_of_le (by omega)]
  exact BitVec.extractLsb'_append_eq_right

@[simp] theorem arg_fieldWord : CmdWord.arg (fieldWord op unit index offset len arg unused) = arg :=
  (extractLsb'_fieldWord_arg ..).trans BitVec.extractLsb'_eq_self

/-- arg[7:0] of a word made with a byte in arg is the byte (R83). -/
@[simp] theorem argByte_fieldWord (v : Byte) :
    CmdWord.argByte (fieldWord op unit index offset len (v.zeroExtend 32) unused) = v := by
  rw [CmdWord.argByte, extractLsb'_fieldWord_arg, BitVec.extractLsb'_setWidth_of_le (by omega)]
  exact BitVec.extractLsb'_eq_self

/-- arg[23:0] of a word made with an id in arg is the id (R154 to R156). -/
@[simp] theorem argId_fieldWord (id : JedecId) :
    CmdWord.argId (fieldWord op unit index offset len (id.zeroExtend 32) unused) = id := by
  rw [CmdWord.argId, extractLsb'_fieldWord_arg, BitVec.extractLsb'_setWidth_of_le (by omega)]
  exact BitVec.extractLsb'_eq_self

/-- Bits 15:10 are ignored (R86). -/
theorem commandInstr_fieldWord (data : List Byte) :
    commandInstr (fieldWord op unit index offset len arg unused) data =
      commandInstr (fieldWord op unit index offset len arg 0) data := by
  simp only [commandInstr, opSel_fieldWord, unit_fieldWord, index_fieldWord, offset_fieldWord, len_fieldWord,
    arg_fieldWord, CmdWord.argByte, CmdWord.argId, extractLsb'_fieldWord_arg]

end

/-- Settles O3: the fields one by one; the decoder reads the word through them alone. -/
theorem commandFields : Obligations.CommandFields := by
  unfold Obligations.CommandFields
  intro op unit index offset len arg unused data
  refine ⟨opSel_fieldWord .., unit_fieldWord .., index_fieldWord .., offset_fieldWord .., len_fieldWord ..,
    arg_fieldWord .., ?_⟩
  show decodeCommand (fieldWord op unit index offset len arg unused) data =
    decodeCommand (fieldWord op unit index offset len arg 0) data
  rw [decodeCommand, decodeCommand, commandInstr_fieldWord, opSel_fieldWord, opSel_fieldWord]

/-! ### The decoders on what the encoder makes -/

theorem decode_command_of_commandInstr {w : CmdWord} {data : List Byte} {i : Instr}
    (h : commandInstr w data = some i) : decode (.command w data) = .ok i := by
  rw [decode, decodeCommand, h]

/-- A frame of a known opcode decodes as what its bytes stand for, where the operands are within their bounds. -/
theorem decode_frame_of_frameInstr {op : Byte} {args : List Byte} {rx : RxShape} {i : Instr}
    (known : op ∈ frameOpcodes) (h : frameInstr op args rx = some i) (wf : i.wellFormed = true) :
    decode (.frame (op :: args) rx) = .ok i := by
  rw [decode, decodeFrame, if_pos known, h]
  exact if_pos wf

theorem formatA_addrBytes (f : Addr → Instr) (a : Addr) : formatA f (addrBytes a) .none = some (f a) :=
  congrArg (fun a => some (f a)) (Machine.addrOfBytes_addrBytes a)

theorem formatAW_addrBytes (f : Addr → List Byte → Instr) (a : Addr) (p : List Byte) :
    formatAW f (addrBytes a ++ p) .none = some (f a p) :=
  congrArg (fun a => some (f a p)) (Machine.addrOfBytes_addrBytes a)

theorem formatAR_addrBytes (f : Addr → Nat → Instr) (a : Addr) (n : Nat) :
    formatAR f (addrBytes a ++ List.replicate Params.fastReadDummy Params.dummyValue) (.bytes n) = some (f a n) :=
  congrArg (fun a => some (f a n)) (Machine.addrOfBytes_addrBytes a)

/-- Settles O1: a frame's bytes are read back by its format, a command word's fields by its op_sel. -/
theorem decodeEncode : Obligations.DecodeEncode := by
  unfold Obligations.DecodeEncode
  intro i wf
  cases i
  case wren | wrdi | rdp | dpd | rdid | ruid | ce | rdsr1 | rdsr2 | rdsr3 | wrsr1 | wrsr2 | wrsr3 | poll =>
    exact decode_frame_of_frameInstr (by decide) rfl wf
  case se | be32 | be64 => exact decode_frame_of_frameInstr (by decide) (formatA_addrBytes _ _) wf
  case pp => exact decode_frame_of_frameInstr (by decide) (formatAW_addrBytes _ _ _) wf
  case fread => exact decode_frame_of_frameInstr (by decide) (formatAR_addrBytes _ _ _) wf
  -- the host operations
  all_goals
    refine decode_command_of_commandInstr ?_
    simp only [commandWord_eq_fieldWord, commandInstr, opSel_fieldWord, unit_fieldWord, index_fieldWord,
      offset_fieldWord, len_fieldWord, arg_fieldWord, argByte_fieldWord, argId_fieldWord]
    rfl

/-- Settles O2: the frame side of the decoder is all that a frame meets. -/
theorem encodeDecodeFrame : Obligations.EncodeDecodeFrame := by
  unfold Obligations.EncodeDecodeFrame
  intro tx rx i h
  exact (encode_of_decodeFrame h).2

/-- Settles O4: the fourteen words are closed, and the decoder runs on them. -/
theorem sampleWords : Obligations.SampleWords := by
  unfold Obligations.SampleWords
  decide

/-! ### Reserved op_sel values -/

/-- No host operation has an op_sel of the ranges of R90. -/
theorem commandInstr_of_reserved {w : CmdWord} (data : List Byte)
    (h : 0x16 ≤ (CmdWord.opSel w).toNat ∧ (CmdWord.opSel w).toNat ≤ 0x1F ∨ (CmdWord.opSel w).toNat = 0x26 ∨
      (CmdWord.opSel w).toNat = 0x27 ∨ 0x2B ≤ (CmdWord.opSel w).toNat) : commandInstr w data = none := by
  unfold commandInstr
  split
  case h_32 => rfl
  all_goals omega

namespace Machine

/-- Settles O5: the decoder rejects the word, and the rejection writes the result record only. -/
theorem reservedOpSel : Obligations.ReservedOpSel := by
  unfold Obligations.ReservedOpSel
  intro s w data rest hq hp reserved
  have rejected : decode (.command w data) = .error (.reservedOpSel (CmdWord.opSel w)) := by
    rw [decode, decodeCommand, commandInstr_of_reserved data reserved]
  simp only [step, hq, hp, rejected, rejectRequest, State.raise, State.finish_spec]

end Machine

end Sys2Proof
end

section
/-! SUPPORT. Which kinds an operation can answer, read off the few ways an operation ends (R270, R282, R283). -/

namespace Sys2Proof.Machine

open Safety

/-! ### The status of a busy-wait and of the splitter -/

/-- The status of a busy-wait is Ok or Fail (R205). -/
theorem State.wait_status (s : State) (ms : Nat) : (s.wait ms).1.1 = .ok ∨ (s.wait ms).1.1 = .fail := by
  obtain ⟨_, _, _, st, _, -, waits, he⟩ := s.wait_spec ms
  rw [he]
  exact WaitsAs.status_cases waits

/-- The status of the write splitter is Ok or Fail (R223). -/
theorem State.program_status (s : State) (ea : Nat) (data : List Byte) :
    (s.program ea data).1.1 = .ok ∨ (s.program ea data).1.1 = .fail := by
  unfold State.program
  simp only
  split
  · exact .inr rfl
  · exact State.wait_status _ _

/-! ### Answering one of some kinds -/

/-- Where the outcome is a next state, its status is Ok or one of the kinds `ks`. -/
structure Answers (ks : List ErrorKind) (out : Out) : Prop where
  status : ∀ t, out = .next t → t.result.status = .ok ∨ t.result.status ∈ ks

section
variable {ks : List ErrorKind} {s : State} {out out' : Out}

/-- An operation that ends with a result record, whatever it did before, answers the status of the record. -/
theorem Answers.finish {r : Result} (h : r.status = .ok ∨ r.status ∈ ks) : Answers ks (.next (s.finish r)) := by
  refine ⟨fun t ht => ?_⟩
  obtain rfl := Host.Outcome.next.inj ht
  exact h

theorem Answers.finish_ok {r : Result} (h : r.status = .ok) : Answers ks (.next (s.finish r)) := .finish (.inl h)

theorem Answers.raise {k : ErrorKind} (h : k ∈ ks) : Answers ks (s.raise k) := .finish (.inr h)

theorem Answers.fault (f : Fault) : Answers ks (.fault f) := ⟨fun _ h => nomatch h⟩

theorem Answers.ite {p : Prop} [Decidable p] (h : Answers ks out) (h' : Answers ks out') :
    Answers ks (if p then out else out') := by
  split
  · exact h
  · exact h'

/-- A gated operation answers NotInitialized or what its body answers (R272). -/
theorem Answers.gate {k : State → Out} (hn : .notInitialized ∈ ks) (h : Answers ks (k s)) :
    Answers ks (gate s k) := .ite h (.raise hn)

theorem Answers.withLock {k : State → Out} (h : Answers ks (k s.takeLock)) : Answers ks (withLock s k) :=
  ⟨fun t ht => h.status t (withLock_next ht).2⟩

/-- An operation with no check of its own answers NotInitialized or Ok. -/
theorem Answers.gate_withLock_ok {k : State → State} {r : State → Result} (h : ∀ u, (r u).status = .ok) :
    Answers [.notInitialized] (Machine.gate s fun u => Machine.withLock u fun u => .next ((k u).finish (r u))) :=
  .gate (by decide) (.withLock (.finish_ok (h _)))

/-- An operation whose status is that of a wait answers Ok or Fail (R275). -/
theorem Answers.finish_wait {k : ErrorKind} {remaining : Nat} (hf : .fail ∈ ks) (h : k = .ok ∨ k = .fail) :
    Answers ks (.next (s.finish (Result.ofWait k remaining))) := by
  refine .finish (h.imp_right ?_)
  rintro rfl
  exact hf

theorem Answers.endWait {w : (ErrorKind × Nat) × State} (hf : .fail ∈ ks) (h : w.1.1 = .ok ∨ w.1.1 = .fail) :
    Answers ks (endWait w) := .finish_wait hf h

theorem Answers.mutating (cmd : State → State) (ms : Nat) (hf : .fail ∈ ks) : Answers ks (mutating cmd ms s) :=
  .withLock (.endWait hf (State.wait_status _ ms))

/-- A mutating operation with no check of its own answers NotInitialized or what its wait answers (R211). -/
theorem Answers.gate_mutating (cmd : State → State) (ms : Nat) :
    Answers [.fail, .notInitialized] (Machine.gate s fun s => Machine.mutating cmd ms s) :=
  .gate (by decide) (.mutating cmd ms (by decide))

/-- An addressed erase (R240). -/
theorem Answers.erase (cmd : State → Addr → State) (ms : Nat) (unit : AddrUnit) (index offset : Word) :
    Answers [.fail, .outOfRange, .notInitialized]
      (Machine.gate s fun s => eraseAt cmd ms (s.effAddr unit index offset) s) :=
  .gate (by decide) (.ite (.raise (by decide)) (.mutating _ ms (by decide)))

theorem Answers.convert (index : Word) (f g : State → Word) : Answers [.notInitialized] (convert index f g s) :=
  .gate (by decide) (.finish_ok rfl)

/-- An initialization past its first checks answers NoMemoryFound or what its last part answers (R180, R277). -/
theorem Answers.identify {k : JedecId → State → Out} (hn : .noMemoryFound ∈ ks) (h : ∀ id u, Answers ks (k id u)) :
    Answers ks (identify s k) := by
  rw [identify_spec]
  exact .ite (.raise hn) (h _ _)

/-- The scanner answers Ok or RegionIsNotEmpty (R265). -/
theorem Answers.scan {ea len : Nat} (hr : .regionIsNotEmpty ∈ ks) :
    Answers ks ((scanLoop len ea len s).2.raise (scanLoop len ea len s).1) := by
  obtain ⟨_, _, st, _, scan, -, ending⟩ := scanLoop_spec len ea len s (Nat.le_refl _)
  rw [scan]
  rcases ending with ⟨rfl, -⟩ | ⟨rfl, -⟩
  · exact .finish_ok rfl
  · exact .raise hr

end

/-! ### Every instruction -/

theorem execInit_answers (s : State) :
    Answers [.invalidParameters, .noMemoryFound, .unknownDevice] (execInit s) :=
  .ite (.raise (by decide)) <| .ite (.finish_ok rfl) <| .identify (by decide) fun _ _ =>
    .ite (.raise (by decide)) <| .ite (.finish_ok rfl) <| .raise (by decide)

theorem execInitNoid_answers (bc : Word) (s : State) :
    Answers [.invalidParameters, .noMemoryFound] (execInitNoid bc s) :=
  .ite (.raise (by decide)) <| .ite (.raise (by decide)) <| .ite (.finish_ok rfl) <|
    .identify (by decide) fun _ _ => .finish_ok rfl

theorem execRead_answers (unit : AddrUnit) (index offset len : Word) (s : State) :
    Answers [.invalidParameters, .outOfRange, .notInitialized] (execRead unit index offset len s) :=
  .gate (by decide) <| .ite (.raise (by decide)) <| .ite (.raise (by decide)) <| .withLock (.finish_ok rfl)

theorem execWrite_answers (unit : AddrUnit) (index offset len : Word) (data : List Byte) (s : State) :
    Answers [.fail, .invalidParameters, .outOfRange, .notInitialized] (execWrite unit index offset len data s) :=
  .gate (by decide) <| .ite (.raise (by decide)) <| .ite (.raise (by decide)) <|
    .withLock (.endWait (by decide) (State.program_status _ _ _))

theorem execIsEmpty_answers (unit : AddrUnit) (index offset len : Word) (s : State) :
    Answers [.invalidParameters, .outOfRange, .notInitialized, .regionIsNotEmpty]
      (execIsEmpty unit index offset len s) :=
  .gate (by decide) <| .ite (.raise (by decide)) <| .ite (.raise (by decide)) <|
    .ite (.scan (by decide)) (.fault _)

theorem execWaitBusy_answers (budget : Word) (s : State) :
    Answers [.fail, .invalidParameters, .notInitialized] (execWaitBusy budget s) :=
  .gate (by decide) <| .ite (.withLock (.endWait (by decide) (State.wait_status _ _))) (.raise (by decide))

theorem execPoll_answers (budget : Word) (s : State) : Answers [.fail, .invalidParameters] (execPoll budget s) :=
  .ite (.finish_wait (by decide) (State.wait_status _ _)) (.raise (by decide))

theorem execEnterPd_answers (s : State) : Answers [.fail, .notInitialized] (execEnterPd s) :=
  .gate (by decide) <| .withLock <| .ite (.raise (by decide)) (.finish_ok rfl)

/-- Every instruction answers Ok or a kind of its row of Table R283. -/
theorem exec_answers (i : Instr) (s : State) : Answers (kindsOf i) (exec i s) := by
  cases i
  case wren | wrdi | rdp | dpd | rdid | ruid | fread | pp | se | be32 | be64 | ce | rdsr1 | rdsr2 | rdsr3 | wrsr1
      | wrsr2 | wrsr3 | idManufacturer | idModel | idBlockcount =>
    exact .finish_ok rfl
  case poll => exact execPoll_answers ..
  case init => exact execInit_answers ..
  case initNoid => exact execInitNoid_answers ..
  case enterPd => exact execEnterPd_answers ..
  case exitPd | rdSr1 | rdSr2 | rdSr3 | writeEnable | writeDisable | rdJedec | rdUid =>
    exact Answers.gate_withLock_ok fun _ => rfl
  case read => exact execRead_answers ..
  case write => exact execWrite_answers ..
  case erase4k | erase32k | erase64k => exact Answers.erase ..
  case eraseChip | wrSr1 | wrSr2 | wrSr3 =>
    exact Answers.gate_mutating ..
  case isEmpty => exact execIsEmpty_answers ..
  case waitBusy => exact execWaitBusy_answers ..
  case pageToSector | pageToBlock | sectorToBlock | sectorToPage | blockToPage | blockToSector =>
    exact Answers.convert ..

/-- No row of Table R283 holds IsLocked (R282). -/
theorem isLocked_not_mem_kindsOf (i : Instr) : ErrorKind.isLocked ∉ kindsOf i := by
  cases i <;> simp [kindsOf]

/-- Settles O22: the numbers are those of the table; the status is Ok or of a row, and no row holds IsLocked. -/
theorem kindsReturned : Obligations.KindsReturned := by
  unfold Obligations.KindsReturned
  refine ⟨⟨rfl, rfl, rfl, rfl, rfl, rfl, rfl, rfl, rfl⟩, fun i s t h => ?_⟩
  have answered := (exec_answers i s).status t h
  refine ⟨answered, fun locked => ?_⟩
  rw [locked] at answered
  exact answered.elim nofun (isLocked_not_mem_kindsOf i)

end Sys2Proof.Machine
end

section
/-! SUPPORT. The power-down state machine, READ and the ID operations as full next states (R154 to R156, R195, R196,
R222). -/

namespace Sys2Proof.Machine

open Safety

/-! ### The power-down state machine -/

/-- The next state of a power-down operation that emits no frame: the counter, the empty lock bracket, the result. -/
def State.counted (s : State) (n : Word) (r : Result) : State :=
  { s with pdCount := n, trace := s.trace ++ bracketed s [], result := r, seq := .idle }

/-- The next state of a power-down operation that emits its one-byte frame `op`: the counter, the power mode, and the
frame in the lock bracket. -/
def State.framed (s : State) (n : Word) (m : PowerMode) (op : Byte) : State :=
  { s with
    pdCount := n
    powerMode := m
    trace := s.trace ++ bracketed s (frameEvents [op] [])
    env := (s.env.frame [op] 0).2
    result := Result.zero
    seq := .idle }

section
variable {s : State} (hi : s.initialized = true) (hl : s.lockReturns = true)
include hi hl

/-- ENTER_PD of a ready block: refused at the largest count, with its frame at zero, counted between (R195). -/
theorem execEnterPd_of_ready :
    execEnterPd s = .next (
      if s.pdCount = Params.pdCountMax then s.counted s.pdCount (Result.ofStatus .fail)
      else if s.pdCount = 0 then s.framed (s.pdCount + 1) .deepPowerDown 0xB9
      else s.counted (s.pdCount + 1) Result.zero) := by
  rw [execEnterPd, gate_withLock_of_ready hi hl]
  simp only [State.takeLock_pdCount]
  repeat' split
  all_goals
    simp only [State.takeLock_spec, State.cmdDpd, State.sendFrame_spec, State.dropLock_spec, State.raise,
      State.finish_spec, State.counted, State.framed, bracketed, unlockEvents, List.append_assoc, List.nil_append]

/-- EXIT_PD of a ready block: nothing at zero, its frame at one, counted above (R196). -/
theorem execExitPd_of_ready :
    execExitPd s = .next (
      if s.pdCount = 0 then s.counted s.pdCount Result.zero
      else if s.pdCount - 1 = 0 then s.framed (s.pdCount - 1) .idle 0xAB
      else s.counted (s.pdCount - 1) Result.zero) := by
  rw [execExitPd, gate_withLock_of_ready hi hl, State.releasePd]
  simp only [State.takeLock_pdCount]
  repeat' split
  all_goals
    simp only [State.takeLock_spec, State.cmdRdp, State.sendFrame_spec, State.dropLock_spec, State.finish_spec,
      State.counted, State.framed, bracketed, unlockEvents, List.append_assoc, List.nil_append]

end

/-- Settles O34: each range of the counter picks its branch of the two operations. -/
theorem powerDown : Obligations.PowerDown := by
  unfold Obligations.PowerDown
  refine ⟨⟨rfl, rfl⟩, fun s hi hl => ?_⟩
  have zero_iff : s.pdCount = 0 ↔ s.pdCount.toNat = 0 := BitVec.toNat_inj.symm
  have max_iff : s.pdCount = Params.pdCountMax ↔ s.pdCount.toNat = 2 ^ 32 - 1 := BitVec.toNat_inj.symm
  have last_iff : s.pdCount - 1 = 0 ↔ s.pdCount.toNat = 1 := by
    rw [BitVec.sub_eq_iff_eq_add]
    exact BitVec.toNat_inj.symm
  simp only [exec, execEnterPd_of_ready hi hl, execExitPd_of_ready hi hl, zero_iff, max_iff, last_iff]
  refine ⟨fun h => ?_, fun h0 hm => ?_, fun h => ?_, fun h => ?_, fun h => ?_, fun h => ?_⟩
  · rw [if_neg (by omega), if_pos h, zero_iff.mpr h]
    rfl
  · rw [if_neg (by omega), if_neg (by omega)]
    rfl
  · rw [if_pos h]
    rfl
  · rw [if_pos h, zero_iff.mpr h]
    rfl
  · rw [if_neg (by omega), if_pos h, last_iff.mpr h]
    rfl
  · rw [if_neg (by omega), if_neg (by omega)]
    rfl

/-! ### READ -/

/-- Settles O36: a READ that passes its checks is its one frame, at the effective address. -/
theorem read : Obligations.Read := by
  unfold Obligations.Read
  intro s unit index offset len hi hl ea bytes f h0 fits
  exact execRead_of_accepted hi hl ⟨h0, fits⟩

/-! ### The ID operations -/

/-- Doubling `k` times multiplies by 2 to the `k` (R152). -/
theorem doubled_eq (n k : Nat) : doubled n k = n * 2 ^ k := by
  induction k generalizing n with
  | zero => exact (Nat.mul_one n).symm
  | succ k ih => rw [doubled, ih, Nat.pow_succ', ← Nat.mul_assoc, Nat.mul_two]

/-- A block count from an id fits the 32-bit register (R152). -/
theorem blockCountFromId_lt (c : Config) (id : JedecId) : Config.blockCountFromId c id < 2 ^ 32 := by
  have zero : 0 < 2 ^ 32 := Nat.two_pow_pos 32
  unfold Config.blockCountFromId
  split
  · exact zero
  split
  · exact zero
  split
  · exact zero
  simp only
  split
  · exact zero
  next small =>
    rw [doubled_eq, Nat.one_mul]
    exact Nat.pow_lt_pow_right (by decide) (by omega)

/-- Settles O55: each writes the result record alone, with the number of what its decoder finds. -/
theorem idOperations : Obligations.IdOperations := by
  unfold Obligations.IdOperations
  intro s id value
  simp only [exec, execIdManufacturer, execIdModel, execIdBlockcount]
  refine ⟨fun h => ?_, fun n h => ?_, fun h => ?_, fun n h => ?_, rfl, blockCountFromId_lt ..⟩
  all_goals
    rw [h]
    rfl

end Sys2Proof.Machine
end

section
/-! SUPPORT. The discipline of the lock: every piece of traffic leaves the lock as it is, and a bracket of a host with
both primitives or neither takes a free lock and releases it (R115, R116, R289). -/

namespace Sys2Proof.Machine

open Safety

theorem lockAfter_append (held : Bool) (a b : List Event) :
    lockAfter held (a ++ b) = (lockAfter held a).bind fun later => lockAfter later b := by
  induction a generalizing held with
  | nil => rfl
  | cons ev rest ih =>
    cases ev with
    | lock => cases held <;> simp [lockAfter, ih]
    | unlock => cases held <;> simp [lockAfter, ih]
    | csLow | csHigh | tx | rx | delay => exact ih held

/-- Events that each time leave the lock as they found it leave it so all together. -/
theorem lockAfter_append_of_kept {held : Bool} {a b : List Event} (ha : lockAfter held a = some held)
    (hb : lockAfter held b = some held) : lockAfter held (a ++ b) = some held := by
  rw [lockAfter_append, ha, Option.bind_some, hb]

theorem lockAfter_flatMap_of_kept {α : Type} {f : α → List Event} {held : Bool} {l : List α}
    (h : ∀ x ∈ l, lockAfter held (f x) = some held) : lockAfter held (l.flatMap f) = some held := by
  induction l with
  | nil => rfl
  | cons x rest ih =>
    obtain ⟨hx, hrest⟩ := List.forall_mem_cons.mp h
    exact lockAfter_append_of_kept hx (ih hrest)

theorem lockAfter_frameEvents (held : Bool) (bytes received : List Byte) :
    lockAfter held (frameEvents bytes received) = some held := by
  unfold frameEvents
  split <;> rfl

theorem lockAfter_pollEvents (held : Bool) (dummy : Byte) (polls : List Byte) :
    lockAfter held (pollEvents dummy polls) = some held := by
  have body : lockAfter held (pollBody polls) = some held := lockAfter_flatMap_of_kept fun _ _ => rfl
  rw [pollEvents_eq]
  exact lockAfter_append_of_kept (lockAfter_append_of_kept rfl body) rfl

/-- No piece of traffic takes or releases the lock. -/
theorem Piece.lockAfter_events (held : Bool) (p : Piece) : lockAfter held p.events = some held := by
  cases p with
  | settle => rfl
  | frame bytes received => exact lockAfter_frameEvents held bytes received
  | poll dummy polls => exact lockAfter_pollEvents held dummy polls

/-- A bracket takes a free lock and releases it, where the host supplies both primitives or neither (R289). -/
theorem lockBalanced_bracketed {s : State} {body : List Event}
    (both : s.config.straps.hasLock = s.config.straps.hasUnlock) (h : ∀ held, lockAfter held body = some held) :
    LockBalanced (bracketed s body) := by
  unfold LockBalanced bracketed lockEvents unlockEvents
  rw [← both]
  cases s.config.straps.hasLock with
  | false => simpa using h false
  | true => simp [lockAfter, lockAfter_append, h true]

/-- The traffic of an instruction takes a free lock and releases it, bracket by bracket. -/
theorem Traffic.lockBalanced_events {s : State} (both : s.config.straps.hasLock = s.config.straps.hasUnlock)
    (tr : Traffic) : LockBalanced (tr.events s) := by
  have pieces (held : Bool) (ps : List Piece) : lockAfter held (ps.flatMap Piece.events) = some held :=
    lockAfter_flatMap_of_kept fun p _ => p.lockAfter_events held
  cases tr with
  | plain ps => exact pieces false ps
  | locked gs => exact lockAfter_flatMap_of_kept fun ps _ => lockBalanced_bracketed both fun held => pieces held ps

/-- Every instruction that ends leaves the lock released, whatever its result (R115, R116, R285). -/
theorem exec_lockBalanced {i : Instr} {s t : State} (h : exec i s = .next t)
    (both : s.config.straps.hasLock = s.config.straps.hasUnlock) (hs : LockBalanced s.trace) :
    LockBalanced t.trace := by
  obtain ⟨tr, ran, -⟩ := exec_ran i h
  rw [ran.trace]
  exact lockAfter_append_of_kept hs (tr.lockBalanced_events both)

/-- Settles O15: an instruction keeps it by the brackets of its traffic, and no other step emits an event. -/
theorem lockBalanceKept : Obligations.LockBalanceKept := by
  unfold Obligations.LockBalanceKept
  intro s t both hs h
  obtain ⟨-, ⟨-, rfl⟩ | ⟨rest, rfl | ⟨i, h⟩ | rfl⟩⟩ := step_cases h
  · exact hs
  · exact hs
  · exact exec_lockBalanced h both hs
  · exact hs

end Sys2Proof.Machine
end

section
/-! SUPPORT. The lone command frames as full next states (R117 to R136; log entry 8). -/

namespace Sys2Proof.Machine

open Safety

/-- Settles O27: each is one frame that receives nothing, and the result Ok. -/
theorem framesSent : Obligations.FramesSent := by
  unfold Obligations.FramesSent
  intro s a p v sent addr
  have frame (bytes : List Byte) : .next ((s.sendFrame bytes).finish Result.zero) = sent bytes := by
    rw [State.sendFrame_spec, State.finish_spec]
  exact ⟨frame _, frame _, frame _, frame _, frame _, frame _, frame _, frame _, frame _, frame _, frame _, frame _⟩

/-- Settles O28: each is one frame, and what it receives in the result record. -/
theorem framesReceived : Obligations.FramesReceived := by
  unfold Obligations.FramesReceived
  intro s a n got status
  have frame (bytes : List Byte) (n : Nat) (r : List Byte → Result) :
      .next ((s.frame bytes n).2.finish (r (s.frame bytes n).1)) = got bytes n r := by
    rw [State.frame_spec, State.finish_spec]
  exact ⟨frame [0x9F] 3 fun r => Result.ofValue ((jedecOfBytes r).zeroExtend 64),
    frame [0x4B, 0x00, 0x00, 0x00, 0x00] 8 fun r => Result.ofValue (uidOfBytes r), frame _ n Result.ofData,
    frame [0x05] 1 status, frame [0x35] 1 status, frame [0x15] 1 status⟩

/-- Settles O29: past the budget check the polling frame is one busy-wait, and `State.wait_spec` says what that does. -/
theorem pollFrame : Obligations.PollFrame := by
  unfold Obligations.PollFrame
  intro s budget fits
  obtain ⟨dummy, before, last, status, remaining, received, waits, after⟩ := s.wait_spec budget.toNat
  refine ⟨dummy, before, last, status, remaining, received, waits, ?_⟩
  have passes : budgetFits budget.toNat = true := decide_eq_true fits
  simp only [exec, execPoll, if_pos passes, after, State.finish_spec]

end Sys2Proof.Machine
end

section
/-! SUPPORT. The block count of a density byte (R152), and an initialization that finds a chip and runs to its end
(R180, R181). -/

namespace Sys2Proof.Machine

open Safety

/-! ### The block count -/

section
variable {c : Config} {id : JedecId} {e : MfrEntry} {place before : Nat}
  (entry : Config.entryOf c id = some (e, place, before))
include entry

theorem blockCountFromId_of_noDensity (h : densityByte e.densitySel id = none) :
    Config.blockCountFromId c id = 0 := by
  simp [Config.blockCountFromId, entry, h]

/-- The block count of a density byte: 2 to its distance from the offset and one more, where the byte is not below
the offset and the count fits 32 bits (D24). -/
theorem blockCountFromId_of_densityByte {d : Byte} (h : densityByte e.densitySel id = some d) :
    Config.blockCountFromId c id =
      if d.toNat < e.densityOffset.toNat ∨ 31 < d.toNat - e.densityOffset.toNat + 1 then 0
      else 2 ^ (d.toNat - e.densityOffset.toNat + 1) := by
  simp only [Config.blockCountFromId, entry, h, doubled_eq, Nat.one_mul, ite_or]

end

/-- Settles O54: the first entry is the one found, its DENSITY_SEL names `d`, and the guards pick the branch. -/
theorem blockCount : Obligations.BlockCount := by
  unfold Obligations.BlockCount
  intro c id front after e table key first off
  have entry := (congrArg (findEntry _ 0 0) table).trans (findEntry_of_first 0 0 key first)
  refine ⟨fun sel => blockCountFromId_of_noDensity entry (by rw [sel]; rfl), fun d named => ?_⟩
  have byte : densityByte e.densitySel id = some d := by
    obtain ⟨sel, rfl⟩ | ⟨sel, rfl⟩ | ⟨sel, rfl⟩ := named <;> rw [sel] <;> rfl
  rw [blockCountFromId_of_densityByte entry byte]
  exact ⟨fun below => if_pos (.inl below), fun above fits => if_neg (by omega), fun _ big => if_pos (.inr big)⟩

/-! ### Initialization of a block that finds a chip -/

/-- What the id read of an initialization receives (R180 step 5), and the environment it leaves. -/
def State.idRead (s : State) : List Byte × Environment := (s.env.deselect.frame [0xAB] 0).2.frame [0x9F] 3

/-- The state after steps 3 to 7 of R180: the chip woken, its id read, kept and decoded. -/
def State.identified (s : State) : State :=
  { s with
    pdCount := 0
    powerMode := .idle
    jedecId := jedecOfBytes s.idRead.1
    manufacturer := Config.interpretManufacturer s.config (jedecOfBytes s.idRead.1)
    model := Config.interpretModel s.config (jedecOfBytes s.idRead.1)
    env := s.idRead.2
    trace := s.trace ++ ([.csHigh, .delay 100] ++ frameEvents [0xAB] [] ++ frameEvents [0x9F] s.idRead.1) }

@[simp] theorem State.identified_model (s : State) :
    s.identified.model = Config.interpretModel s.config (jedecOfBytes s.idRead.1) := rfl

theorem State.identified_readUid_config (s : State) : s.identified.readUid.config = s.config := by
  rw [State.readUid_spec]
  rfl

section
variable {s : State} {id : JedecId} (received : jedecOfBytes s.idRead.1 = id) (chip : noChip id = false)
include received chip

/-- With a chip there the operation goes on with the id, in the state that holds it decoded (R180 steps 3 to 7). -/
theorem identify_of_chip (k : JedecId → State → Out) : identify s k = k id s.identified := by
  subst received
  rw [identify_spec]
  exact if_neg (Bool.eq_false_iff.mp chip)

variable (straps : Straps.required s.config.straps = true) (fresh : s.initialized = false)
include straps fresh

/-- INIT past its first checks and with a chip there (R180 steps 8 to 14). -/
theorem execInit_of_chip :
    execInit s =
      if Config.interpretModel s.config id = .modelUnknown then s.identified.raise .unknownDevice
      else if blockCountFits (Config.blockCountFromId s.config id) then
        .next (s.identified.readUid.complete (Config.blockCountFromId s.config id))
      else s.identified.readUid.raise .unknownDevice := by
  simp only [execInit, straps, fresh, identify_of_chip received chip, State.identified_model, received,
    State.identified_readUid_config, Bool.not_true, Bool.false_eq_true, if_false]

/-- INIT_NOID past its first checks and with a chip there (R181). -/
theorem execInitNoid_of_chip {bc : Word} (fits : blockCountFits bc.toNat = true) :
    execInitNoid bc s = .next (s.identified.readUid.complete bc.toNat) := by
  simp only [execInitNoid, straps, fits, fresh, identify_of_chip received chip, Bool.not_true, Bool.false_eq_true,
    if_false]

end

/-- Settles O30: past the checks both operations complete the identified state, and the specs of the parts say what
that leaves. -/
theorem initCompletes : Obligations.InitCompletes := by
  unfold Obligations.InitCompletes
  intro s straps fresh f1 f2 f3 f4 f5 f6 id done not0 not1
  have received : jedecOfBytes s.idRead.1 = id := rfl
  have chip : noChip id = false := Bool.eq_false_iff.mpr fun bad => (noChip_iff.mp bad).elim not0 not1
  have completed (bc : Nat) : s.identified.readUid.complete bc = done bc := by
    simp only [State.complete_spec, State.readUid_spec, State.identified, List.append_assoc, done]
    rfl
  refine ⟨fun known positive small => ?_, fun bc positive small => ?_⟩
  · have fits := blockCountFits_iff.mpr ⟨positive, small⟩
    rw [exec, execInit_of_chip received chip straps fresh, if_neg known, if_pos fits, completed]
  · have fits := blockCountFits_iff.mpr ⟨positive, small⟩
    rw [exec, execInitNoid_of_chip received chip straps fresh fits, completed]

end Sys2Proof.Machine
end

section
/-! SUPPORT. The address translator: a conversion as a full next state, on and off initialized blocks, and its value
between two sizes one of which is a multiple of the other (R165 to R172). -/

namespace Sys2Proof.Machine

open Safety

/-! ### A conversion -/

/-- The state that answers the number `n` and changes nothing else. -/
def State.answered (s : State) (n : Nat) : State :=
  { s with result := Result.ofValue (BitVec.ofNat 64 n), seq := .idle }

/-- The value of an answer, as the operand of the next conversion. -/
theorem State.answered_operand (s : State) (n : Nat) :
    (s.answered n).result.value.setWidth 32 = BitVec.ofNat 32 n :=
  BitVec.setWidth_ofNat_of_le (by decide) n

theorem convert_of_not_initialized {s : State} (h : s.initialized = false) (x : Word) (f g : State → Word) :
    convert x f g s = .next { s with result := Result.ofStatus .notInitialized, seq := .idle } := by
  rw [convert, gate_of_not_initialized h, State.finish_spec]

/-- The answer is the product over the quotient modulo 2^32 (R171). -/
theorem convert_of_initialized {s : State} (h : s.initialized = true) (x : Word) (f g : State → Word) :
    convert x f g s = .next (s.answered (x.toNat * (f s).toNat / (g s).toNat % 2 ^ 32)) := by
  have widened (n : Nat) : (BitVec.ofNat 32 n).zeroExtend 64 = BitVec.ofNat 64 (n % 2 ^ 32) :=
    (BitVec.ofNat_toNat 64 _).symm
  rw [convert, gate_of_initialized h]
  simp only [widened, State.finish_spec, State.answered]

/-! ### Between a size and a multiple of it -/

/-- One unit of size `large` holds `k` units of size `small`. -/
structure UnitHolds (k : Nat) (small large : State → Word) (s : State) : Prop where
  k_pos : 0 < k
  small_pos : 0 < (small s).toNat
  large_eq : (large s).toNat = k * (small s).toNat

section
variable {s : State} (geometry : GeometryHolds s)
include geometry

theorem sector_holds_pages : UnitHolds 16 State.pageSize State.sectorSize s := by
  obtain ⟨page, sector, -⟩ := geometry
  exact ⟨by decide, by omega, by omega⟩

theorem block_holds_pages : UnitHolds 256 State.pageSize State.blockSize s := by
  obtain ⟨page, -, block, -⟩ := geometry
  exact ⟨by decide, by omega, by omega⟩

theorem block_holds_sectors : UnitHolds 16 State.sectorSize State.blockSize s := by
  obtain ⟨-, sector, block, -⟩ := geometry
  exact ⟨by decide, by omega, by omega⟩

end

section
variable {s : State} {k : Nat} {small large : State → Word} (h : UnitHolds k small large s)
  (init : s.initialized = true)
include h init

/-- To the larger unit: the quotient, which no reduction changes. -/
theorem UnitHolds.convert_down (x : Word) : convert x small large s = .next (s.answered (x.toNat / k)) := by
  have fits : x.toNat / k < 2 ^ 32 := (Nat.div_le_self ..).trans_lt x.isLt
  rw [convert_of_initialized init, h.large_eq, Nat.mul_div_mul_right _ _ h.small_pos, Nat.mod_eq_of_lt fits]

/-- To the smaller unit: the product modulo 2^32. -/
theorem UnitHolds.convert_up (x : Word) : convert x large small s = .next (s.answered (x.toNat * k % 2 ^ 32)) := by
  rw [convert_of_initialized init, h.large_eq, ← Nat.mul_assoc, Nat.mul_div_cancel _ h.small_pos]

/-- Down and up again: the first small unit of the large one (R172). -/
theorem UnitHolds.down_up (x : Word) :
    ∃ t u, convert x small large s = .next t ∧ convert (t.result.value.setWidth 32) large small s = .next u ∧
      u.result.value.toNat = x.toNat - x.toNat % k := by
  refine ⟨_, _, h.convert_down init x, h.convert_up init _, ?_⟩
  have quotient : x.toNat / k % 2 ^ 32 = x.toNat / k :=
    Nat.mod_eq_of_lt ((Nat.div_le_self ..).trans_lt x.isLt)
  have start : x.toNat / k * k = x.toNat - x.toNat % k := Nat.div_mul_self_eq_mod_sub_self
  have bounded : x.toNat - x.toNat % k < 2 ^ 32 := (Nat.sub_le ..).trans_lt x.isLt
  rw [State.answered_operand, BitVec.toNat_ofNat, quotient, start, Nat.mod_eq_of_lt bounded]
  exact Nat.mod_eq_of_lt (bounded.trans (by decide))

/-- Up and down again: the unit itself, where the way up fits 32 bits (R172). -/
theorem UnitHolds.up_down (x : Word) (fits : x.toNat * k < 2 ^ 32) :
    ∃ t u, convert x large small s = .next t ∧ convert (t.result.value.setWidth 32) small large s = .next u ∧
      u.result.value = x.zeroExtend 64 := by
  refine ⟨_, _, h.convert_up init x, h.convert_down init _, ?_⟩
  rw [State.answered_operand, BitVec.toNat_ofNat, Nat.mod_mod, Nat.mod_eq_of_lt fits, Nat.mul_div_cancel _ h.k_pos]
  exact BitVec.ofNat_toNat 64 x

end

/-- Settles O52: each pair is the two conversions between a size and a multiple of it. -/
theorem roundTrips : Obligations.RoundTrips := by
  unfold Obligations.RoundTrips
  intro s down up k init geometry pair
  obtain ⟨rfl, rfl, rfl⟩ | ⟨rfl, rfl, rfl⟩ | ⟨rfl, rfl, rfl⟩ := pair
  · have h := sector_holds_pages geometry
    exact ⟨h.down_up init, h.up_down init⟩
  · have h := block_holds_pages geometry
    exact ⟨h.down_up init, h.up_down init⟩
  · have h := block_holds_sectors geometry
    exact ⟨h.down_up init, h.up_down init⟩

/-- Settles O50: the decoder's row for each op_sel, the gate, and the value by R171 and by the fixed sizes. -/
theorem downwardConversions : Obligations.DownwardConversions := by
  unfold Obligations.DownwardConversions
  intro s x value rejected
  refine ⟨?_, fun h => ?_, fun init geometry => ?_⟩
  · rintro w data rfl
    have selects {op : Byte} {i : Instr} (row : CmdWord.opSel w = op → commandInstr w data = some i)
        (h : CmdWord.opSel w = op) := decode_command_of_commandInstr (row h)
    refine ⟨selects fun h => ?_, selects fun h => ?_, selects fun h => ?_⟩
    all_goals
      rw [commandInstr, h]
      rfl
  · exact ⟨convert_of_not_initialized h .., convert_of_not_initialized h .., convert_of_not_initialized h ..⟩
  · exact ⟨convert_of_initialized init .., (sector_holds_pages geometry).convert_down init x,
      convert_of_initialized init .., (block_holds_pages geometry).convert_down init x,
      convert_of_initialized init .., (block_holds_sectors geometry).convert_down init x⟩

/-- Settles O51: the three conversions to a smaller unit. -/
theorem upwardConversions : Obligations.UpwardConversions := by
  unfold Obligations.UpwardConversions
  intro s x init geometry
  exact ⟨(sector_holds_pages geometry).convert_up init x, (block_holds_pages geometry).convert_up init x,
    (block_holds_sectors geometry).convert_up init x⟩

end Sys2Proof.Machine
end

section
/-! SUPPORT. Where INIT and INIT_NOID end early: before any event, and at a device they do not know (R180 to R182). -/

namespace Sys2Proof.Machine

theorem blockCountFits_eq_false_iff {n : Nat} : blockCountFits n = false ↔ n = 0 ∨ 65535 < n := by
  rw [← Bool.not_eq_true, blockCountFits_iff]
  omega

/-! ### The checks before any event -/

section
variable {s : State}

theorem execInit_of_strap_missing (missing : Straps.required s.config.straps = false) :
    execInit s = s.raise .invalidParameters := by
  simp [execInit, missing]

theorem execInitNoid_of_strap_missing (bc : Word) (missing : Straps.required s.config.straps = false) :
    execInitNoid bc s = s.raise .invalidParameters := by
  simp [execInitNoid, missing]

/-- The straps and the block count raise one kind, so a bad count gives it whatever the straps are. -/
theorem execInitNoid_of_not_fits {bc : Word} (bad : blockCountFits bc.toNat = false) :
    execInitNoid bc s = s.raise .invalidParameters := by
  simp [execInitNoid, bad]

variable (straps : Straps.required s.config.straps = true) (init : s.initialized = true)
include straps init

/-- The shortcut of an initialized block (R180 step 2). -/
theorem execInit_of_initialized : execInit s = s.raise .ok := by
  simp [execInit, straps, init]

/-- The shortcut comes after the check of the block count (R181). -/
theorem execInitNoid_of_initialized {bc : Word} (fits : blockCountFits bc.toNat = true) :
    execInitNoid bc s = s.raise .ok := by
  simp [execInitNoid, straps, fits, init]

end

/-- Settles O31: each early end is its check's `raise`, which is the state of the statement. -/
theorem initWithoutEvent : Obligations.InitWithoutEvent := by
  unfold Obligations.InitWithoutEvent
  intro s bc ends
  refine ⟨fun missing => ⟨?_, ?_⟩, fun bad => ?_, fun straps init => ⟨?_, fun positive small => ?_⟩⟩
  · exact execInit_of_strap_missing missing
  · exact execInitNoid_of_strap_missing bc missing
  · exact execInitNoid_of_not_fits (blockCountFits_eq_false_iff.mpr bad)
  · exact execInit_of_initialized straps init
  · exact execInitNoid_of_initialized straps init (blockCountFits_iff.mpr ⟨positive, small⟩)

/-! ### A device that is not known -/

/-- Settles O33: with a chip there INIT raises from the identified state at the model test, and from the same state
with the unique id read at the block count test. -/
theorem initUnknownDevice : Obligations.InitUnknownDevice := by
  unfold Obligations.InitUnknownDevice
  intro s straps fresh f1 f2 f3 id bc decoded not0 not1
  have received : jedecOfBytes s.idRead.1 = id := rfl
  have chip : noChip id = false := Bool.eq_false_iff.mpr fun bad => (noChip_iff.mp bad).elim not0 not1
  refine ⟨fun unknown => ?_, fun known bad => ?_⟩
  · rw [exec, execInit_of_chip received chip straps fresh, if_pos unknown]
    rfl
  · have misfit := blockCountFits_eq_false_iff.mpr bad
    rw [exec, execInit_of_chip received chip straps fresh, if_neg known, if_neg (Bool.eq_false_iff.mp misfit),
      State.readUid_spec]
    rfl

end Sys2Proof.Machine
end

section
/-! SUPPORT. Nested power-down (R197): runs of ENTER_PD and of EXIT_PD, with the counter and the power mode they leave
and the frames they send. -/

namespace Sys2Proof.Machine

open Safety

/-- Running `is` from `s` ends in `t`, and the events of the run hold just these frames. -/
structure RunsTo (is : List Instr) (s : State) (frames : List (List Byte)) (t : State) : Prop where
  run   : execAll is s = .next t
  trace : ∃ events, t.trace = s.trace ++ events ∧ txFrames events = frames

/-- A block past the gate and the lock, with its counter at `c` and in power mode `m`. -/
structure PowerAt (s : State) (c : Nat) (m : PowerMode) : Prop where
  initialized : s.initialized = true
  lockReturns : s.lockReturns = true
  count       : s.pdCount.toNat = c
  mode        : s.powerMode = m

section
variable {s t u : State} {i : Instr} {is : List Instr} {frames more : List (List Byte)} {c : Nat} {m : PowerMode}

/-! ### Runs -/

theorem execAll_cons_of_next (h : exec i s = .next t) : execAll (i :: is) s = execAll is t := by
  rw [execAll, h]

theorem RunsTo.refl (s : State) : RunsTo [] s [] s :=
  ⟨rfl, [], (List.append_nil _).symm, rfl⟩

/-- An instruction that answers, before a run. -/
theorem RunsTo.cons {events : List Event} (step : exec i s = .next t) (trace : t.trace = s.trace ++ events)
    (sent : txFrames events = frames) (rest : RunsTo is t more u) : RunsTo (i :: is) s (frames ++ more) u := by
  obtain ⟨run, later, restTrace, restSent⟩ := rest
  refine ⟨(execAll_cons_of_next step).trans run, events ++ later, ?_, ?_⟩
  · rw [restTrace, trace, List.append_assoc]
  · rw [txFrames_append, sent, restSent]

/-- An operation that only counts sends nothing before the rest of the run. -/
theorem RunsTo.cons_counted {n : Word} {r : Result} (step : exec i s = .next (s.counted n r))
    (rest : RunsTo is (s.counted n r) more u) : RunsTo (i :: is) s more u :=
  .cons step rfl (txFrames_bracketed s []) rest

/-- An operation that changes the power mode sends its frame before the rest of the run. -/
theorem RunsTo.cons_framed {n : Word} {op : Byte} (step : exec i s = .next (s.framed n m op))
    (rest : RunsTo is (s.framed n m op) more u) : RunsTo (i :: is) s ([op] :: more) u :=
  .cons step rfl ((txFrames_bracketed s _).trans (txFrames_frameEvents [op] [])) rest

/-! ### The counter and the power mode -/

theorem PowerAt.counted (h : PowerAt s c m) (n : Word) (r : Result) : PowerAt (s.counted n r) n.toNat m :=
  ⟨h.initialized, h.lockReturns, rfl, h.mode⟩

theorem PowerAt.framed (h : PowerAt s c m) (n : Word) (m' : PowerMode) (op : Byte) :
    PowerAt (s.framed n m' op) n.toNat m' := by
  refine ⟨h.initialized, ?_, rfl, rfl⟩
  have lock := h.lockReturns
  rwa [State.lockReturns, ← frame_lockGrants s.env [op] 0] at lock

/-! ### Runs of one operation -/

/-- Further ENTER_PD of a block already in power-down only count, up to the largest count (R195). -/
theorem PowerAt.enterPd_replicate (h : PowerAt s c .deepPowerDown) (pos : 0 < c) {k : Nat} (fits : c + k < 2 ^ 32) :
    ∃ t, RunsTo (List.replicate k .enterPd) s [] t ∧ PowerAt t (c + k) .deepPowerDown := by
  obtain ⟨-, ops⟩ := powerDown
  induction k generalizing s c with
  | zero => exact ⟨s, .refl s, h⟩
  | succ k ih =>
    obtain ⟨-, nested, -⟩ := ops s h.initialized h.lockReturns
    have step := nested (by rw [h.count]; exact pos) (by rw [h.count]; omega)
    have count : (s.pdCount + 1).toNat = c + 1 := by
      have := h.count
      bv_omega
    have counted := h.counted (s.pdCount + 1) Result.zero
    rw [count] at counted
    obtain ⟨t, run, after⟩ := ih counted c.succ_pos (by omega)
    rw [Nat.add_right_comm, Nat.add_assoc] at after
    exact ⟨t, .cons_counted step run, after⟩

/-- From an awake block the first ENTER_PD sends the enter frame, and those after it only count (R195). -/
theorem PowerAt.enterPd_replicate_of_zero (h : PowerAt s 0 m) {k : Nat} (fits : k + 1 < 2 ^ 32) :
    ∃ t, RunsTo (List.replicate (k + 1) .enterPd) s [[0xB9]] t ∧ PowerAt t (k + 1) .deepPowerDown := by
  obtain ⟨-, ops⟩ := powerDown
  obtain ⟨first, -⟩ := ops s h.initialized h.lockReturns
  have entered : PowerAt (s.framed 1 .deepPowerDown 0xB9) 1 .deepPowerDown := h.framed 1 .deepPowerDown 0xB9
  obtain ⟨t, run, after⟩ := entered.enterPd_replicate Nat.one_pos (k := k) (by omega)
  rw [Nat.add_comm] at after
  exact ⟨t, .cons_framed (first h.count) run, after⟩

/-- As many EXIT_PD as the counter holds: the last of them sends the release frame, and the others only count (R196). -/
theorem PowerAt.exitPd_replicate {k : Nat} (h : PowerAt s (k + 1) m) :
    ∃ t, RunsTo (List.replicate (k + 1) .exitPd) s [[0xAB]] t ∧ PowerAt t 0 .idle := by
  obtain ⟨-, ops⟩ := powerDown
  induction k generalizing s with
  | zero =>
    obtain ⟨-, -, -, -, last, -⟩ := ops s h.initialized h.lockReturns
    exact ⟨_, .cons_framed (last h.count) (.refl _), h.framed 0 .idle 0xAB⟩
  | succ k ih =>
    obtain ⟨-, -, -, -, -, inner⟩ := ops s h.initialized h.lockReturns
    have step := inner (by rw [h.count]; omega)
    have count : (s.pdCount - 1).toNat = k + 1 := by
      have := h.count
      bv_omega
    have counted := h.counted (s.pdCount - 1) Result.zero
    rw [count] at counted
    obtain ⟨t, run, after⟩ := ih counted
    exact ⟨t, .cons_counted step run, after⟩

end

/-- Settles O35: the run of ENTER_PD sends the enter frame alone, the run of EXIT_PD after it the release frame alone. -/
theorem powerDownNesting : Obligations.PowerDownNesting := by
  unfold Obligations.PowerDownNesting
  intro s n hi hl awake pos fits
  obtain ⟨k, rfl⟩ := Nat.exists_eq_succ_of_ne_zero (Nat.ne_of_gt pos)
  have start : PowerAt s 0 s.powerMode := ⟨hi, hl, congrArg BitVec.toNat awake, rfl⟩
  obtain ⟨asleep, ⟨down, e1, trace1, sent1⟩, atDown⟩ := start.enterPd_replicate_of_zero fits
  obtain ⟨woken, ⟨up, e2, trace2, sent2⟩, atUp⟩ := atDown.exitPd_replicate
  refine ⟨asleep, woken, e1 ++ e2, down, atDown.mode, atDown.count, up, atUp.mode, BitVec.eq_of_toNat_eq atUp.count,
    ?_, ?_⟩
  · rw [trace2, trace1, List.append_assoc]
  · rw [txFrames_append, sent1, sent2]
    rfl

end Sys2Proof.Machine
end

section
/-! SUPPORT. The operations that end in a busy-wait and those of the write-enable latch as full next states (R205 to
R211, R240 to R244, R253 to R256). -/

namespace Sys2Proof.Machine

open Safety

/-! ### Write-enable and write-disable -/

/-- Settles O45: each is one frame in the lock bracket that receives nothing, with no slot written. -/
theorem writeEnableDisable : Obligations.WriteEnableDisable := by
  unfold Obligations.WriteEnableDisable
  intro s hi hl done
  simp only [exec, execWriteEnable, execWriteDisable, gate_withLock_of_ready hi hl]
  exact ⟨congrArg _ (s.locked_frame_spec [0x06] 0 none none none Result.zero),
    congrArg _ (s.locked_frame_spec [0x04] 0 none none none Result.zero)⟩

/-! ### The mutating template -/

/-- The mutating template for a command that is its frame and writes no slot of the status cache (R211). -/
theorem mutating_frame_spec {cmd : State → State} {bytes : List Byte} (ms : Nat) {s : State}
    (hl : s.lockReturns = true) (hc : ∀ u, cmd u = u.sendFrame bytes) :
    EndsInWait s s (frameEvents [0x06] [] ++ frameEvents bytes []) ((s.env.frame [0x06] 0).2.frame bytes 0).2 ms
      (mutating cmd ms s) :=
  mutating_spec cmd bytes ms s none none hl fun u => ⟨u.sr1, by simp [hc, State.sendFrame_spec]⟩

/-- An addressed erase that passes its range check is the mutating template, at the address as computed (R240, R244). -/
theorem eraseAt_of_fits {cmd : State → Addr → State} {op : Byte} (ms : Nat) {s : State} {ea : Nat}
    (hl : s.lockReturns = true) (fits : s.config.rangeCheck = false ∨ ea < s.capacity)
    (hc : ∀ u a, cmd u a = u.sendFrame (op :: addrBytes a)) :
    let bytes := op :: addrBytes (frameAddr ea)
    EndsInWait s s (frameEvents [0x06] [] ++ frameEvents bytes []) ((s.env.frame [0x06] 0).2.frame bytes 0).2 ms
      (eraseAt cmd ms ea s) := by
  rw [eraseAt, eraseRangeBad_of_fits fits, if_neg Bool.false_ne_true]
  exact mutating_frame_spec ms hl fun u => hc u _

/-- Settles O39: past the gate and the range check each erase is the mutating template with its own frame. -/
theorem erases : Obligations.Erases := by
  unfold Obligations.Erases
  intro s unit index offset hi hl ea frames sent ends addr
  simp only [exec, execErase4k, execErase32k, execErase64k, execEraseChip, gate_of_initialized hi]
  exact ⟨fun fits => ⟨eraseAt_of_fits _ hl fits fun _ _ => rfl, eraseAt_of_fits _ hl fits fun _ _ => rfl,
    eraseAt_of_fits _ hl fits fun _ _ => rfl⟩, mutating_frame_spec _ hl fun _ => rfl⟩

/-- Settles O44: past the gate each is the mutating template, whose command also writes its own slot. -/
theorem writeStatus : Obligations.WriteStatus := by
  unfold Obligations.WriteStatus
  intro s v hi hl writes
  simp only [exec, execWrSr1, execWrSr2, execWrSr3, gate_of_initialized hi]
  refine ⟨mutating_spec _ [0x01, v] _ s none none hl fun _ => ⟨v, ?_⟩,
    mutating_spec _ [0x31, v] _ s (some v) none hl fun u => ⟨u.sr1, ?_⟩,
    mutating_spec _ [0x11, v] _ s none (some v) hl fun u => ⟨u.sr1, ?_⟩⟩
  · simp [State.cmdWrsr1, State.sendFrame_spec]
  · simp [State.cmdWrsr2, State.sendFrame_spec]
  · simp [State.cmdWrsr3, State.sendFrame_spec]

/-! ### WAIT_BUSY -/

/-- A wait in the lock bracket, with nothing before it (R207). -/
theorem locked_wait_spec (s : State) (ms : Nat) : EndsInWait s s [] s.env ms (endWait (s.takeLock.wait ms)) := by
  obtain ⟨dummy, before, last, status, remaining, received, waits, after⟩ := s.takeLock.wait_spec ms
  rw [State.takeLock_env] at received after
  refine ⟨dummy, before, last, status, remaining, received, waits, ?_⟩
  rw [endWait, after]
  simp only [State.takeLock_spec, State.dropLock_spec, State.finish_spec, bracketed, unlockEvents,
    List.append_assoc, List.nil_append]

/-- Settles O46: the budget check picks the wait or the refusal. -/
theorem waitBusy : Obligations.WaitBusy := by
  unfold Obligations.WaitBusy
  intro s budget hi
  simp only [exec, execWaitBusy, gate_of_initialized hi]
  refine ⟨fun hl fits => ?_, fun exceeds => ?_⟩
  · have passes : budgetFits budget.toNat = true := decide_eq_true fits
    rw [if_pos passes, withLock_of_returns hl]
    exact locked_wait_spec s budget.toNat
  · have fails : budgetFits budget.toNat = false := decide_eq_false (Nat.not_lt.mpr exceeds)
    rw [if_neg (Bool.eq_false_iff.mp fails), State.raise, State.finish_spec]

/-! ### The iteration law -/

/-- Of the bytes an environment answers, the first do not depend on how many are received (R71, R113). -/
theorem answers_prefix {m n : Nat} (h : m ≤ n) (e : Environment) :
    (Environment.answers m e).1 <+: (Environment.answers n e).1 := by
  induction m generalizing n e with
  | zero => exact List.nil_prefix
  | succ m ih =>
    obtain ⟨k, rfl⟩ := Nat.exists_eq_add_of_le' h
    exact (List.prefix_cons_inj _).mpr (ih (Nat.le_of_add_le_add_right h) _)

/-- Two busy-waits of one budget of which one polls the first bytes of the other poll the same: the earlier end was
at a byte that is not busy or at the budget's last, and no wait goes on after such a byte (R205). -/
theorem WaitsAs.eq_of_prefix {ms : Nat} {p q : List Byte} {st st' : ErrorKind} {rem rem' : Nat}
    (hp : WaitsAs ms p st rem) (hq : WaitsAs ms q st' rem') (h : p <+: q) : p = q := by
  obtain ⟨before, last, rfl, -, -, ends⟩ := hp
  obtain ⟨before', last', rfl, short, busy, -⟩ := hq
  refine (List.prefix_concat_iff.mp h).resolve_right fun inner => ?_
  have continued : last.getLsbD 0 = true := busy last (inner.subset (by simp))
  have length_le := inner.length_le
  rcases ends with ⟨idle, -⟩ | ⟨-, spent, -⟩
  · rw [continued] at idle
    cases idle
  · omega

/-- The environment decides what a busy-wait polls (R205, R206). -/
theorem WaitsAs.polls_unique {ms : Nat} {e : Environment} {dummy dummy' : Byte} {p q : List Byte}
    {st st' : ErrorKind} {rem rem' : Nat} (hp : WaitsAs ms p st rem) (hq : WaitsAs ms q st' rem')
    (received : dummy :: p = (e.frame [0x05] (p.length + 1)).1)
    (received' : dummy' :: q = (e.frame [0x05] (q.length + 1)).1) : dummy = dummy' ∧ p = q := by
  wlog h : p.length ≤ q.length generalizing dummy dummy' p q st st' rem rem'
  · obtain ⟨rfl, rfl⟩ := this hq hp received' received (Nat.le_of_not_le h)
    exact ⟨rfl, rfl⟩
  have first := answers_prefix (Nat.succ_le_succ h) (e.select.send [0x05])
  obtain ⟨rfl, rest⟩ := List.cons_prefix_cons.mp (received ▸ received' ▸ first)
  exact ⟨rfl, WaitsAs.eq_of_prefix hp hq rest⟩

/-- The bytes polled decide the result of a busy-wait (R206). -/
theorem WaitsAs.ofWait_eq {ms : Nat} {before : List Byte} {last : Byte} {st : ErrorKind} {rem : Nat}
    (h : WaitsAs ms (before ++ [last]) st rem) :
    Result.ofWait st rem = if last.getLsbD 0 = false then
        Result.ofWait .ok ((ms * 1000 - 100 * (before.length + 1)) / 1000)
      else Result.ofWait .fail 0 := by
  obtain ⟨before', last', same, -, -, ends⟩ := h
  obtain ⟨rfl, rfl⟩ := List.append_singleton_inj.mp same
  rcases ends with ⟨idle, rfl, rfl⟩ | ⟨busy, -, rfl, rfl⟩
  · rw [if_pos idle, List.length_append, List.length_singleton]
  · rw [if_neg (by rw [busy]; exact Bool.noConfusion)]

/-- Busy bytes within the budget and a last byte that ends it are what some busy-wait polls (R205). -/
theorem waitsAs_of_ends {ms : Nat} {before : List Byte} {last : Byte} (busy : ∀ b ∈ before, b.getLsbD 0 = true)
    (short : before.length < maxPolls ms) (ends : last.getLsbD 0 = false ∨ before.length + 1 = maxPolls ms) :
    ∃ st rem, WaitsAs ms (before ++ [last]) st rem := by
  cases bit : last.getLsbD 0 with
  | false => exact ⟨_, _, before, last, rfl, short, busy, .inl ⟨bit, rfl, rfl⟩⟩
  | true =>
    have spent : before.length + 1 = maxPolls ms := ends.resolve_left (by rw [bit]; exact Bool.noConfusion)
    exact ⟨_, _, before, last, rfl, short, busy, .inr ⟨bit, by simpa using spent, rfl, rfl⟩⟩

/-- Settles O47: the scripted bytes are a busy-wait the environment answers, so they are the one WAIT_BUSY makes. -/
theorem waitIterations : Obligations.WaitIterations := by
  unfold Obligations.WaitIterations
  intro s budget dummy last busy rest hi hl fits hd script allBusy short ends
  have scripted : s.env.frame [0x05] (busy.length + 2) =
      (dummy :: (busy ++ [last]),
        { s.env with script := rest, received := s.env.received + busy.length + 2 }) := by
    obtain ⟨-, answer⟩ := oracleAnswers s.env [0x05] (busy.length + 2)
    rw [answer hd (by simp [script]), script]
    simp [List.take_append, List.drop_append, Nat.add_assoc]
  obtain ⟨st, rem, expected⟩ := waitsAs_of_ends allBusy short ends
  obtain ⟨ready, -⟩ := waitBusy s budget hi
  obtain ⟨dummy', before, last', status, remaining, received, waits, out⟩ := ready hl fits
  obtain ⟨rfl, same⟩ := WaitsAs.polls_unique waits expected (e := s.env) (by simpa using received)
    (by simpa using (congrArg Prod.fst scripted).symm)
  obtain ⟨rfl, rfl⟩ := List.append_singleton_inj.mp same
  rw [out, scripted, WaitsAs.ofWait_eq waits, List.nil_append]

end Sys2Proof.Machine
end

section
/-! SUPPORT. WRITE as a full next state (R211, R223). -/

namespace Sys2Proof.Machine

open Safety

/-- The splitter ends in a final wait over all the data, or in Fail at the last chunk (R223, D20). -/
theorem ProgramEnd.waited_or_failed {runs : List ChunkRun} {left : List Byte} {e e' : Environment} {last : Byte}
    {status : ErrorKind} {remaining : Nat} {body : List Event}
    (h : ProgramEnd runs left e last status remaining body e') :
    (left = [] ∧ (∀ c ∈ runs, ∃ r, WaitsAs 500 c.polls .ok r) ∧
        ∃ dummy before, body = pollEvents dummy (before ++ [last]) ∧
          (dummy :: (before ++ [last]), e') = e.frame [0x05] (before.length + 2) ∧
          WaitsAs 500 (before ++ [last]) status remaining) ∨
      (status = .fail ∧ remaining = 0 ∧ body = [] ∧ e' = e ∧
        ∃ init c before, runs = init ++ [c] ∧ c.polls = before ++ [last] ∧
          (∀ c ∈ init, ∃ r, WaitsAs 500 c.polls .ok r) ∧ WaitsAs 500 c.polls .fail 0) := by
  cases h with
  | waited dummy before _ _ _ all chunks answered waits =>
    exact .inl ⟨all, chunks, dummy, before, rfl, answered, waits⟩
  | failed init c before split polls chunks waits =>
    exact .inr ⟨rfl, rfl, rfl, rfl, init, c, before, split, polls, chunks, waits⟩

/-- Settles O37: past its checks a WRITE is the splitter in its lock bracket, which ends in one of its two ways. -/
theorem write : Obligations.Write := by
  unfold Obligations.Write
  intro s unit index offset len data hi hl geometry ea h0 hd fits
  obtain ⟨page, -⟩ := geometry
  obtain ⟨runs, left, e, last, status, remaining, body, e', run, chunks, ending⟩ :=
    endWait_program_spec s ea data (by omega)
  rw [page] at chunks
  exact ⟨runs, left, last, body, status, remaining, e, e',
    (execWrite_of_accepted hi hl ⟨h0, fits⟩ hd).trans run, chunks, ending.waited_or_failed⟩

end Sys2Proof.Machine
end

section
/-! SUPPORT. IS_EMPTY as a full next state, and the law of its probes (R265, R266). -/

namespace Sys2Proof.Safety

open Sys2Proof.Machine

/-! ### Probes that received erased bytes only -/

theorem ProbeRun.erased_iff {p : ProbeRun} : p.erased = true ↔ ∀ b ∈ p.received, b = 0xFF := by
  simp only [ProbeRun.erased, List.all_eq_true, beq_iff_eq]

theorem ProbeRun.erased_eq_false_iff {p : ProbeRun} : p.erased = false ↔ ∃ b ∈ p.received, b ≠ 0xFF := by
  simp only [← Bool.not_eq_true, ProbeRun.erased_iff, not_forall, exists_prop, ne_eq]

/-! ### The probes of a scan -/

section
variable {size : Nat} {e e' : Environment} {a rem left : Nat} {probes : List ProbeRun}
  (h : ProbesFrom size e a rem probes left e')
include h

/-- The probes' frames are fast reads, each a probe size after the one before (R124, R265). -/
theorem ProbesFrom.map_frame : probes.map ProbeRun.frame =
    (List.range probes.length).map fun k => 0x0B :: addrBytes (BitVec.ofNat 24 (a + k * size)) ++ [0x00] := by
  refine List.ext_getElem (by simp) fun k hk _ => ?_
  rw [List.length_map] at hk
  obtain ⟨address, -, -⟩ := h.nth k hk
  rw [List.getElem_map, List.getElem_map, List.getElem_range, ← address]
  rfl

/-- The probes receive a probe size each, or what is left of the region (R265). -/
theorem ProbesFrom.map_received_length : (probes.map ProbeRun.received).map List.length =
    (List.range probes.length).map fun k => min size (rem - k * size) := by
  refine List.ext_getElem (by simp) fun k hk _ => ?_
  rw [List.length_map, List.length_map] at hk
  obtain ⟨-, received, -⟩ := h.nth k hk
  rw [List.getElem_map, List.getElem_map, List.getElem_map, List.getElem_range, received]

theorem ProbesFrom.received_ne_nil (pos : 0 < size) : ∀ p ∈ probes, p.received ≠ [] := by
  intro p hp
  obtain ⟨k, hk, rfl⟩ := List.mem_iff_getElem.mp hp
  obtain ⟨-, received, more⟩ := h.nth k hk
  rw [← List.length_pos_iff, received]
  omega

end

/-- Of the bytes received by erased probes and one more that is not erased, the first that is not 0xFF lies in that
last probe, so its offset gives the number of the probes (R266). -/
theorem ProbesFrom.first_not_erased {size : Nat} {e e' : Environment} {a rem left : Nat} {init : List ProbeRun}
    {p : ProbeRun} (h : ProbesFrom size e a rem (init ++ [p]) left e')
    (erased : ∀ q ∈ init, ∀ b ∈ q.received, b = 0xFF) (other : ∃ b ∈ p.received, b ≠ 0xFF) :
    ∃ before b after, ((init ++ [p]).map ProbeRun.received).flatten = before ++ b :: after ∧
      (∀ x ∈ before, x = 0xFF) ∧ b ≠ 0xFF ∧ (init ++ [p]).length = before.length / size + 1 := by
  obtain ⟨c, hc, notFF⟩ := other
  obtain ⟨b, start, after, startErased, first, split, -⟩ :=
    List.exists_of_eraseP (p := (· != 0xFF)) hc (bne_iff_ne.mpr notFF)
  obtain ⟨whole, short⟩ := h.init_length
  refine ⟨init.flatMap ProbeRun.received ++ start, b, after, ?_, ?_, bne_iff_ne.mp first, ?_⟩
  · rw [List.map_append, List.flatten_append, List.map_singleton, List.flatten_singleton, split, List.append_assoc]
    rfl
  · intro x hx
    rcases List.mem_append.mp hx with hx | hx
    · obtain ⟨q, hq, hx⟩ := List.mem_flatMap.mp hx
      exact erased q hq x hx
    · simpa using startErased x hx
  · have inside : start.length < size := by
      rw [split, List.length_append, List.length_cons] at short
      omega
    rw [List.length_append, List.length_append, List.length_singleton, whole, Nat.add_comm (init.length * size),
      Nat.add_mul_div_right _ _ (Nat.zero_lt_of_lt inside), Nat.div_eq_of_lt inside, Nat.zero_add]

end Sys2Proof.Safety

namespace Sys2Proof.Machine

open Safety

/-! ### IS_EMPTY -/

/-- An IS_EMPTY that passes its checks ends with what the scanner answers (R220, R265). -/
theorem execIsEmpty_of_accepted {s : State} {unit : AddrUnit} {index offset len : Word} (hi : s.initialized = true)
    (hl : s.lockReturns = true) (h : accepted s unit index offset len) :
    execIsEmpty unit index offset len s =
      (scanLoop len.toNat (s.effAddr unit index offset) len.toNat s).2.raise
        (scanLoop len.toNat (s.effAddr unit index offset) len.toNat s).1 := by
  obtain ⟨h0, checked⟩ := accepted_iff.mp h
  rw [execIsEmpty, gate_of_initialized hi]
  simp only [if_neg h0, if_neg checked, if_pos hl]

/-- Settles O40: past its checks an IS_EMPTY is the scanner, which ends in one of its two ways. -/
theorem isEmpty : Obligations.IsEmpty := by
  unfold Obligations.IsEmpty
  intro s unit index offset len hi hl ea h0 fits
  obtain ⟨probes, left, status, env, scan, probed, ending⟩ := scanLoop_spec len.toNat ea len.toNat s (Nat.le_refl _)
  simp only [ProbeRun.erased_iff, ProbeRun.erased_eq_false_iff] at ending
  refine ⟨probes, left, status, env, ?_, probed, ending⟩
  rw [exec, execIsEmpty_of_accepted hi hl ⟨h0, fits⟩, State.effAddr_eq, scan, State.raise, State.finish_spec]

/-! ### The probe law -/

/-- Settles O42: the frames are those of the scanner's probes, and the laws of `ProbesFrom` say which they are. -/
theorem probeLaw : Obligations.ProbeLaw := by
  unfold Obligations.ProbeLaw
  intro s unit index offset len hi hl ea size h0 fits
  obtain ⟨probes, left, status, env, run, probed, ending⟩ := isEmpty s unit index offset len hi hl h0 fits
  have received := rxData_probes s probes (probed.received_ne_nil s.config.probeSize_pos)
  refine ⟨_, probes.flatMap (probeEvents s), probes.length, run, rfl, ?_, ?_, ?_⟩
  · rw [txFrames_probes, probed.map_frame]
  · rw [received, probed.map_received_length]
  rcases ending with ⟨rfl, rfl, -⟩ | ⟨rfl, init, p, rfl, erased, other⟩
  · exact ⟨fun _ => probed.count s.config.probeSize_pos, nofun⟩
  · refine ⟨nofun, fun _ => ?_⟩
    rw [received]
    exact probed.first_not_erased erased other

end Sys2Proof.Machine
end

section
/-! SUPPORT. Which instruction raises an error kind, read off its row of Table R283 (R283). -/

namespace Sys2Proof.Machine

open Safety

/-- A status other than Ok stands in the instruction's row of Table R283. -/
theorem status_mem_kindsOf {i : Instr} {s t : State} {k : ErrorKind} (h : exec i s = .next t)
    (status : t.result.status = k) (raised : k ≠ .ok) : k ∈ kindsOf i := by
  subst status
  exact ((exec_answers i s).status t h).resolve_left raised

/-- The rows with NotInitialized are those of the gated operations (R272, R280). -/
theorem notInitialized_mem_kindsOf_iff {i : Instr} : .notInitialized ∈ kindsOf i ↔ isGated i = true := by
  cases i <;> simp [kindsOf, isGated]

/-- The rows with NoMemoryFound are those of INIT and INIT_NOID (R277). -/
theorem noMemoryFound_mem_kindsOf_iff {i : Instr} : .noMemoryFound ∈ kindsOf i ↔ initializes i = true := by
  cases i <;> simp [kindsOf, initializes]

theorem initializes_iff {i : Instr} : initializes i = true ↔ i = .init ∨ ∃ bc, i = .initNoid bc := by
  cases i <;> simp [initializes]

/-- The one row with RegionIsNotEmpty is that of IS_EMPTY (R281). -/
theorem regionIsNotEmpty_mem_kindsOf_iff {i : Instr} :
    .regionIsNotEmpty ∈ kindsOf i ↔ ∃ unit index offset len, i = .isEmpty unit index offset len := by
  cases i <;> simp [kindsOf]

end Sys2Proof.Machine
end

section
/-! SUPPORT. The hardware reset (R300), and the gate (R272, R280): a gated operation is the gate around a body that
never answers NotInitialized. -/

namespace Sys2Proof.Machine

open Safety

/-! ### The hardware reset -/

/-- Settles O9: the arm of the step for a reset, with the registers it clears. -/
theorem hardReset : Obligations.HardReset := by
  unfold Obligations.HardReset
  intro s rest idle reset
  simp only [step, idle, reset]
  rfl

/-! ### The gate -/

/-- The kinds an operation can raise once the gate has let it through. -/
def kindsPastGate : List ErrorKind := [.fail, .invalidParameters, .outOfRange, .regionIsNotEmpty]

/-- An operation is the gate around `body`, which answers Ok or one of the kinds past the gate (R272). -/
structure GateAround (op body : State → Out) : Prop where
  eq_gate : ∀ s, op s = gate s body
  answers : ∀ s, Answers kindsPastGate (body s)

theorem Answers.withLock_ok {ks : List ErrorKind} {s : State} {k : State → State} {r : State → Result}
    (h : ∀ u, (r u).status = .ok) : Answers ks (Machine.withLock s fun u => .next ((k u).finish (r u))) :=
  .withLock (.finish_ok (h _))

/-- Every gated operation is the gate around a body of its own (R272). -/
theorem exec_gateAround {i : Instr} (gated : isGated i = true) : ∃ body, GateAround (exec i) body := by
  cases i
  case wren | wrdi | rdp | dpd | rdid | ruid | fread | pp | se | be32 | be64 | ce | rdsr1 | rdsr2 | rdsr3 | wrsr1
      | wrsr2 | wrsr3 | poll | init | initNoid | idManufacturer | idModel | idBlockcount =>
    cases gated
  case exitPd | rdSr1 | rdSr2 | rdSr3 | writeEnable | writeDisable | rdJedec | rdUid =>
    exact ⟨_, fun _ => rfl, fun _ => .withLock_ok fun _ => rfl⟩
  case pageToSector | pageToBlock | sectorToBlock | sectorToPage | blockToPage | blockToSector =>
    exact ⟨_, fun _ => rfl, fun _ => .finish_ok rfl⟩
  case eraseChip | wrSr1 | wrSr2 | wrSr3 =>
    exact ⟨_, fun _ => rfl, fun _ => .mutating _ _ (by decide)⟩
  case erase4k | erase32k | erase64k =>
    exact ⟨_, fun _ => rfl, fun _ => .ite (.raise (by decide)) (.mutating _ _ (by decide))⟩
  case enterPd =>
    exact ⟨_, fun _ => rfl, fun _ => .withLock <| .ite (.raise (by decide)) (.finish_ok rfl)⟩
  case read =>
    exact ⟨_, fun _ => rfl, fun _ =>
      .ite (.raise (by decide)) <| .ite (.raise (by decide)) <| .withLock (.finish_ok rfl)⟩
  case write =>
    exact ⟨_, fun _ => rfl, fun _ =>
      .ite (.raise (by decide)) <| .ite (.raise (by decide)) <|
        .withLock (.endWait (by decide) (State.program_status _ _ _))⟩
  case isEmpty =>
    exact ⟨_, fun _ => rfl, fun _ =>
      .ite (.raise (by decide)) <| .ite (.raise (by decide)) <| .ite (.scan (by decide)) (.fault _)⟩
  case waitBusy =>
    exact ⟨_, fun _ => rfl, fun _ =>
      .ite (.withLock (.endWait (by decide) (State.wait_status _ _))) (.raise (by decide))⟩

/-- Settles O21: the kind is in the rows of the gated operations only, and there it is the gate that raises it. -/
theorem gateRejects : Obligations.GateRejects := by
  unfold Obligations.GateRejects
  refine ⟨rfl, fun i s gated fresh => ?_, fun i s t h status => ?_⟩
  · obtain ⟨body, around⟩ := exec_gateAround gated
    rw [around.eq_gate, gate_of_not_initialized fresh, State.finish_spec]
  · have gated : isGated i = true := notInitialized_mem_kindsOf_iff.mp (status_mem_kindsOf h status (by decide))
    obtain ⟨body, around⟩ := exec_gateAround gated
    rw [around.eq_gate] at h
    obtain ⟨-, past⟩ | ⟨fresh, -⟩ := gate_next h
    · have answered := (around.answers s).status t past
      rw [status] at answered
      exact absurd answered (by decide)
    · exact ⟨gated, fresh⟩

end Sys2Proof.Machine
end

section
/-! SUPPORT. INIT and INIT_NOID where no chip answers: NoMemoryFound, with the bad id kept (R182, R277). -/

namespace Sys2Proof.Machine

open Safety

/-! ### The id an initialization keeps -/

@[simp] theorem State.identified_jedecId (s : State) : s.identified.jedecId = jedecOfBytes s.idRead.1 := rfl

@[simp] theorem State.readUid_jedecId (s : State) : s.readUid.jedecId = s.jedecId := by rw [State.readUid_spec]

@[simp] theorem State.complete_jedecId (s : State) (bc : Nat) : (s.complete bc).jedecId = s.jedecId := by
  rw [State.complete_spec]

@[simp] theorem State.complete_result (s : State) (bc : Nat) : (s.complete bc).result = Result.zero := rfl

/-- The outcome is a next state that keeps the id read, with NoMemoryFound exactly where the id is a bad one. -/
def KeepsId (s : State) (out : Out) : Prop :=
  ∃ t, out = .next t ∧ t.jedecId = jedecOfBytes s.idRead.1 ∧
    (t.result.status = .noMemoryFound ↔ noChip (jedecOfBytes s.idRead.1) = true)

section
variable {s : State}

/-- A bad id ends the operation at the id read; after it the id is kept and NoMemoryFound no longer raised (R277). -/
theorem KeepsId.identify {k : JedecId → State → Out}
    (later : ∃ t, k (jedecOfBytes s.idRead.1) s.identified = .next t ∧ t.jedecId = jedecOfBytes s.idRead.1 ∧
      t.result.status ≠ .noMemoryFound) : KeepsId s (identify s k) := by
  rw [identify_spec]
  cases chip : noChip (jedecOfBytes s.idRead.1) with
  | true => exact ⟨_, if_pos chip, rfl, iff_of_true rfl chip⟩
  | false =>
    obtain ⟨t, run, kept, status⟩ := later
    have there : ¬ noChip (jedecOfBytes s.idRead.1) = true := Bool.eq_false_iff.mp chip
    exact ⟨t, (if_neg there).trans run, kept, iff_of_false status there⟩

variable (straps : Straps.required s.config.straps = true) (fresh : s.initialized = false)
include straps fresh

/-- INIT past its first checks (R180): a known device completes, an unknown one raises another kind. -/
theorem execInit_keepsId : KeepsId s (execInit s) := by
  simp only [execInit, straps, fresh, Bool.not_true, Bool.false_eq_true, if_false]
  refine .identify ?_
  split
  · exact ⟨_, rfl, by simp, by simp [Result.ofStatus]⟩
  · split
    · exact ⟨_, rfl, by simp, by simp [Result.zero]⟩
    · exact ⟨_, rfl, by simp, by simp [Result.ofStatus]⟩

/-- INIT_NOID past its first checks (R181). -/
theorem execInitNoid_keepsId {bc : Word} (fits : blockCountFits bc.toNat = true) : KeepsId s (execInitNoid bc s) := by
  simp only [execInitNoid, straps, fits, fresh, Bool.not_true, Bool.false_eq_true, if_false]
  exact .identify ⟨_, rfl, by simp, by simp [Result.zero]⟩

end

/-- INIT ends before any event or keeps the id it reads. -/
theorem execInit_raise_or_keepsId (s : State) :
    (∃ k ∈ [ErrorKind.invalidParameters, .ok], execInit s = s.raise k) ∨ KeepsId s (execInit s) := by
  cases straps : Straps.required s.config.straps with
  | false => exact .inl ⟨_, by decide, execInit_of_strap_missing straps⟩
  | true =>
    cases init : s.initialized with
    | true => exact .inl ⟨_, by decide, execInit_of_initialized straps init⟩
    | false => exact .inr (execInit_keepsId straps init)

/-- INIT_NOID ends before any event or keeps the id it reads. -/
theorem execInitNoid_raise_or_keepsId (bc : Word) (s : State) :
    (∃ k ∈ [ErrorKind.invalidParameters, .ok], execInitNoid bc s = s.raise k) ∨ KeepsId s (execInitNoid bc s) := by
  cases straps : Straps.required s.config.straps with
  | false => exact .inl ⟨_, by decide, execInitNoid_of_strap_missing bc straps⟩
  | true =>
    cases fits : blockCountFits bc.toNat with
    | false => exact .inl ⟨_, by decide, execInitNoid_of_not_fits fits⟩
    | true =>
      cases init : s.initialized with
      | true => exact .inl ⟨_, by decide, execInitNoid_of_initialized straps init fits⟩
      | false => exact .inr (execInitNoid_keepsId straps init fits)

/-- Settles O32: the kind is in the rows of the two operations only, and past their checks they keep the id. -/
theorem noMemoryFound : Obligations.NoMemoryFound := by
  unfold Obligations.NoMemoryFound
  refine ⟨rfl, fun i s t h status => ?_, fun s bc straps fresh positive small i two => ?_⟩
  · have two : initializes i = true := noMemoryFound_mem_kindsOf_iff.mp (status_mem_kindsOf h status (by decide))
    have ends : (∃ k ∈ [ErrorKind.invalidParameters, .ok], exec i s = s.raise k) ∨ KeepsId s (exec i s) := by
      obtain rfl | ⟨bc, rfl⟩ := initializes_iff.mp two
      · exact execInit_raise_or_keepsId s
      · exact execInitNoid_raise_or_keepsId bc s
    refine ⟨two, noChip_iff.mp ?_⟩
    rw [h] at ends
    obtain ⟨k, early, raised⟩ | ⟨_, same, kept, bad⟩ := ends
    · obtain rfl := Host.Outcome.next.inj raised
      obtain rfl : k = .noMemoryFound := status
      exact absurd early (by decide)
    · obtain rfl := Host.Outcome.next.inj same
      rw [kept]
      exact bad.mp status
  · have keeps : KeepsId s (exec i s) := by
      obtain rfl | rfl := List.mem_pair.mp two
      · exact execInit_keepsId straps fresh
      · exact execInitNoid_keepsId straps fresh (blockCountFits_iff.mpr ⟨positive, small⟩)
    obtain ⟨t, run, kept, bad⟩ := keeps
    exact ⟨t, run, kept, bad.trans noChip_iff⟩

end Sys2Proof.Machine
end

section
/-! SUPPORT. RegionIsNotEmpty: from an IS_EMPTY past its checks only, and there exactly where a byte it received is not
0xFF (R265, R281). -/

namespace Sys2Proof.Machine

open Safety

/-- An IS_EMPTY ends with another kind before any event, or it passes its checks and takes the lock (R220). -/
theorem execIsEmpty_next {s t : State} {unit : AddrUnit} {index offset len : Word}
    (h : execIsEmpty unit index offset len s = .next t) :
    (∃ k ∈ [ErrorKind.notInitialized, .invalidParameters, .outOfRange], t = s.finish (Result.ofStatus k)) ∨
      s.initialized = true ∧ s.lockReturns = true ∧ accepted s unit index offset len := by
  rcases gate_next h with ⟨hi, h⟩ | ⟨-, h⟩
  · simp only at h
    split at h
    next => exact .inl ⟨_, by decide, (Host.Outcome.next.inj h).symm⟩
    next h0 =>
      split at h
      next => exact .inl ⟨_, by decide, (Host.Outcome.next.inj h).symm⟩
      next checked =>
        split at h
        next hl => exact .inr ⟨hi, hl, accepted_iff.mpr ⟨h0, checked⟩⟩
        next => cases h
  · exact .inl ⟨_, by decide, h⟩

/-- Settles O41: past its checks an IS_EMPTY is its probes, of which only the last can hold a byte that is not 0xFF. -/
theorem regionIsNotEmpty : Obligations.RegionIsNotEmpty := by
  unfold Obligations.RegionIsNotEmpty
  refine ⟨rfl, fun i s t h status => ?_, fun s unit index offset len hi hl => ?_⟩
  · obtain ⟨unit, index, offset, len, rfl⟩ :=
      regionIsNotEmpty_mem_kindsOf_iff.mp (status_mem_kindsOf h status (by decide))
    refine ⟨⟨unit, index, offset, len, rfl⟩, ?_⟩
    obtain ⟨k, early, rfl⟩ | ⟨hi, hl, h0, fits⟩ := execIsEmpty_next h
    · obtain rfl : k = .regionIsNotEmpty := status
      exact absurd early (by decide)
    · obtain ⟨probes, _, _, _, run, -, ending⟩ := isEmpty s unit index offset len hi hl h0 fits
      obtain rfl := Host.Outcome.next.inj (h.symm.trans run)
      obtain ⟨rfl, -⟩ | ⟨-, init, p, rfl, erased, other⟩ := ending
      · cases status
      · exact ⟨init, p, rfl, erased, other⟩
  · intro ea h0 fits
    obtain ⟨probes, _, st, _, run, probed, ending⟩ := isEmpty s unit index offset len hi hl h0 fits
    refine ⟨_, probes.flatMap (probeEvents s), run, rfl, ?_⟩
    rw [rxData_probes s probes (probed.received_ne_nil s.config.probeSize_pos)]
    obtain ⟨rfl, -, erased⟩ | ⟨rfl, init, p, rfl, -, other⟩ := ending
    · refine iff_of_false nofun ?_
      rintro ⟨r, hr, b, hb, notFF⟩
      obtain ⟨q, hq, rfl⟩ := List.mem_map.mp hr
      exact notFF (erased q hq b hb)
    · exact iff_of_true rfl ⟨p.received, by simp, other⟩

end Sys2Proof.Machine
end
